-- ==== Sys2Proof/Word.lean ====
section
/-! DEFINITION. The word types of PAFC. Bit 0 is the least significant bit (R10, R60); a value is narrowed only where a rule
says so, so the rules' arithmetic is done on `Nat` and `Int` and the registers are these bit vectors. -/

namespace Sys2Proof

/-- A command word or the data of a response: 32 bits (R60, R80). -/
abbrev Word := BitVec 32

/-- A duty cycle, unsigned fixed point U1.16 in 17 bits: `0x10000` is 1.0 (R12). -/
abbrev Duty := BitVec 17

/-- A tick count or a semi-period in microseconds: 16 bits unsigned (R32, R37, R39). -/
abbrev Ticks := BitVec 16

/-- The `ch` field of a channel command as a channel number, 0..15 (R81). Channels at or above `N_CH` do not exist. -/
abbrev ChanIx := Fin 16

end Sys2Proof
end

