-- ==== Sys2Proof/Config.lean ====
section
/-! DEFINITION. What an implementation of PAFC fixes (R8, R9): the parameters, the firing-delay table, and the instance that
`State.reset` is taken at. The values the spec leaves OPEN without a default are opaque constants: nothing proves a value of them. -/

namespace Sys2Proof

/-- No entry is below the one after it (R9: "monotonically non-increasing"). -/
def nonIncreasing : List Ticks → Bool
  | a :: b :: rest => decide (b ≤ a) && nonIncreasing (b :: rest)
  | _ => true

/-- The FiringDelayTable `LUT[0..79]` (R9, R42). An illegal table cannot be built: "A model must refuse (not instantiate)" one
(R9). The defaults only make the type inhabited; no instance uses them. -/
structure FiringDelayTable where
  entries : Vector Ticks 80 := Vector.replicate 80 0
  legal : nonIncreasing entries.toList = true := by decide
deriving DecidableEq, Repr, Inhabited

/-- The other parameters of R8 with their ranges. -/
structure Params where
  /-- `N_CH`, the number of channel slots. -/
  nCh : Nat
  /-- `N_PINS`, the number of output pins. -/
  nPins : Nat
  /-- `T_MIN_DELAY`, the minimum firing-delay floor in ticks. -/
  tMinDelay : Ticks
  /-- `T_LATE_MAX`, the largest lateness at which an overdue channel is still fired, in ticks. -/
  tLateMax : Ticks
  nCh_range : 1 ≤ nCh ∧ nCh ≤ 16
  nPins_range : 1 ≤ nPins ∧ nPins ≤ 32
deriving DecidableEq, Repr

/-- The table of the instance (R8: OPEN, no rule may assume a value). -/
opaque Config.lut : FiringDelayTable

/-- `T_MIN_DELAY` of the instance (R8: OPEN). -/
opaque Config.tMinDelay : Ticks

/-- `T_LATE_MAX` of the instance (R8: OPEN). -/
opaque Config.tLateMax : Ticks

/-- The instance `State.reset` is taken at. DESIGN CHOICE (log 4): `N_CH` and `N_PINS` are OPEN in R8 and stand at the defaults R8
names for them, 8 and 32. Every state carries its own parameters, so a statement about all states speaks of every instance. -/
def Config.params : Params where
  nCh := 8
  nPins := 32
  tMinDelay := Config.tMinDelay
  tLateMax := Config.tLateMax
  nCh_range := by decide
  nPins_range := by decide

end Sys2Proof
end

