-- ==== Sys2Proof/Machine/Numeric.lean ====
section
/-! DEFINITION. The number work of the rules, on exact integers (R10, R236): clamping, the remap, the firing delay and the
power-LUT lookup. -/

namespace Sys2Proof.Machine

/-- `clamp(v, lo, hi) = max(lo, min(v, hi))` (R10). -/
def clamp (v lo hi : Int) : Int := max lo (min v hi)

/-- A clamped operand stored as a duty cycle; the bounds keep it in `0..0x10000`, so nothing is lost (R236). -/
def clampDuty (v lo hi : Int) : Duty := BitVec.ofInt 17 (clamp v lo hi)

/-- The remap of R112: `MIN + ((DUTY * (MAX - MIN)) >> 16)`, truncated. -/
def remap (duty dutyMin dutyMax : Nat) : Nat := dutyMin + (duty * (dutyMax - dutyMin)) >>> 16

/-- `delay_of(F, S)` (R141), in ticks. -/
def delayOf (fire semi : Nat) : Nat := ((0x10000 - fire) * semi) >>> 16

/-- `ceil_div(a, b)` for `b > 0` (R10). -/
def ceilDiv (a b : Nat) : Nat := (a + b - 1) / b

/-- `LUT[i]` for `i` in `0..79` (R13). The index is in range wherever a rule reads the table. -/
def lutEntry (t : FiringDelayTable) (i : Nat) : Nat := (t.entries[i]?.getD 0).toNat

/-- `slot` of R142. -/
def lutSlot (mapped : Nat) : Nat := mapped * 79

/-- The interpolated value `v` between the two bracketing entries (R142, R143). -/
def lutValue (t : FiringDelayTable) (mapped : Nat) : Nat :=
  let idx := lutSlot mapped >>> 16
  let frac := lutSlot mapped % 0x10000
  let a := lutEntry t idx
  let b := lutEntry t (idx + 1)
  a - ((a - b) * frac) >>> 16

/-- The absolute delay in microseconds of an interpolated value (R144). -/
def delayUs (v semi : Nat) : Nat := (v * semi + 0x8000) >>> 16

/-- The fire duty cycle of an absolute delay (R145). -/
def fireOfDelay (delay semi : Nat) : Nat := 0x10000 - ceilDiv (delay <<< 16) semi

/-- `lut_fire(M, S)` (R146). -/
def lutFire (t : FiringDelayTable) (mapped semi : Nat) : Nat :=
  if mapped = 0 then 0
  else if mapped ≥ 0x10000 then 0x10000
  else fireOfDelay (delayUs (lutValue t mapped) semi) semi

end Sys2Proof.Machine
end

