-- ==== Sys2Proof/Machine/Operands.lean ====
section
/-! DEFINITION. Operand assembly and read-back extension. Formats `P`, `B`, `S`, `K`, `I`, `M` are unsigned with no scaling
(R83), so their fields are used as they stand. -/

namespace Sys2Proof.Machine

/-- Format `D` (R83): `v = sext_24(imm[23:0])`, a signed integer read as Q7.16. -/
def operandD (imm : BitVec 24) : Int := imm.toInt

/-- The delay argument of a zero-cross event: `sext_16(d)` (R84, R171). -/
def operandZc (d : BitVec 16) : Int := d.toInt

/-- `zext` of a register to a 32-bit view (R11). -/
def viewU {n : Nat} (v : BitVec n) : Word := v.setWidth 32

/-- A signed register holding `x` reads back as `x mod 2^32` (R11). -/
def viewS {n : Nat} (v : BitVec n) : Word := v.signExtend 32

/-- A one-bit answer as response data (R86). -/
def viewBit (b : Bool) : Word := (BitVec.ofBool b).setWidth 32

end Sys2Proof.Machine
end

