-- ==== Sys2Proof/Syntax.lean ====
section
/-! DEFINITION. The fourteen commands of PAFC as syntax: one constructor per row of spec/opcode_table.json (R85). -/

namespace Sys2Proof

/-- The two units (R13, R30): `PC = 0` phase control, `CS = 1` cycle stealing. -/
inductive UnitId where
  | pc
  | cs
deriving DecidableEq, Repr

/-- The selectors of `GET` (R231), in the order of their codes 0..9. -/
inductive ChanSel where
  | duty | limit | min | max | mapped | fire | ctrl | pend | debt | bal
deriving DecidableEq, Repr

/-- The selectors of `GETU` (R233), in the order of their codes 0..5. -/
inductive UnitSel where
  | semi | count | alarm | ustat | errflags | pins
deriving DecidableEq, Repr

/-- The commands of R85. Operands are the fields of the operand formats of R82; format `D` keeps its raw 24 bits, read as
signed by the meaning (R83). -/
inductive Instr where
  /-- `NOP` (R230). -/
  | nop
  /-- `BEGIN c, m, p` (R161). -/
  | beginChan (c : ChanIx) (m : UnitId) (p : BitVec 8)
  /-- `END c` (R163). -/
  | endChan (c : ChanIx)
  /-- `SETDUTY c, #v` (R110). -/
  | setDuty (c : ChanIx) (v : BitVec 24)
  /-- `SETLIMIT c, #v` (R114). -/
  | setLimit (c : ChanIx) (v : BitVec 24)
  /-- `SETMIN c, #v` (R115). -/
  | setMin (c : ChanIx) (v : BitVec 24)
  /-- `SETMAX c, #v` (R116). -/
  | setMax (c : ChanIx) (v : BitVec 24)
  /-- `SETONLINE c, b` (R117). -/
  | setOnline (c : ChanIx) (b : Bool)
  /-- `SETLUT c, b` (R148). -/
  | setLut (c : ChanIx) (b : Bool)
  /-- `SETSEMI u, s` (R149). -/
  | setSemi (u : UnitId) (p : Ticks)
  /-- `GET c, k` (R231). -/
  | get (c : ChanIx) (k : ChanSel)
  /-- `GETU u, k` (R233). -/
  | getU (u : UnitId) (k : UnitSel)
  /-- `GETLUT i` (R234). -/
  | getLut (i : Fin 80)
  /-- `CLRERR m` (R235). -/
  | clrErr (m : BitVec 8)
deriving DecidableEq, Repr

/-- The channel a channel command names (R81), `none` for the other commands. -/
def Instr.channel : Instr → Option ChanIx
  | .nop => none
  | .beginChan c _ _ => some c
  | .endChan c => some c
  | .setDuty c _ => some c
  | .setLimit c _ => some c
  | .setMin c _ => some c
  | .setMax c _ => some c
  | .setOnline c _ => some c
  | .setLut c _ => some c
  | .setSemi _ _ => none
  | .get c _ => some c
  | .getU _ _ => none
  | .getLut _ => none
  | .clrErr _ => none

end Sys2Proof
end

