-- ==== Sys2Proof/Machine/State.lean ====
section
/-! DEFINITION. The architectural state of PAFC (R20 to R42), the reasons a step can stop, and the state after reset (R46). -/

namespace Sys2Proof.Machine

/-- One slot of the channel register file `CH[c]` (R21). -/
structure Channel where
  /-- `DUTY`, the user-set duty cycle (R22). -/
  duty : Duty
  /-- `LIMIT`, the safety limit (R23). -/
  limit : Duty
  /-- `MIN`, the lower remap bound (R24). -/
  dutyMin : Duty
  /-- `MAX`, the upper remap bound (R24). -/
  dutyMax : Duty
  /-- `MAPPED`, the remapped duty cycle (R25). -/
  mapped : Duty
  /-- `FIRE`, the effective conduction fraction (R26). -/
  fire : Duty
  /-- `ENABLED` (R27). -/
  enabled : Bool
  /-- `ONLINE` (R28). -/
  online : Bool
  /-- `LUT_EN` (R29). -/
  lutEn : Bool
  /-- `MODE`, the unit the channel belongs to (R30). -/
  mode : UnitId
  /-- `PINSEL`, the number of the output pin (R31). -/
  pinsel : BitVec 8
  /-- `PEND`, the pending firing delay, `none` for the sentinel `NONE` (R32). -/
  pend : Option Ticks
  /-- `DEBT`, U2.16 (R33). -/
  debt : BitVec 18
  /-- `BAL`, two's complement (R34). -/
  bal : BitVec 2
deriving DecidableEq, Repr

/-- The registers of unit PC (R37 to R39). -/
structure PcUnit where
  semi : Ticks
  /-- `COUNT`, two's complement. -/
  count : BitVec 32
  alarm : Ticks
  armed : Bool
deriving DecidableEq, Repr

/-- The registers of unit CS (R37 to R39). -/
structure CsUnit where
  semi : Ticks
  /-- `COUNT`, two's complement. -/
  count : BitVec 32
  /-- `POL`: `false` is `+1`, `true` is `-1` (R206). -/
  pol : Bool
deriving DecidableEq, Repr

/-- The response outputs `(rsp_err, rsp_data)` of the command port (R80, R86). -/
structure Response where
  err : Bool
  data : Word
deriving DecidableEq, Repr

/-- One step the environment presents (R15), or a clock with `rst = 1` (R280). -/
inductive Input where
  /-- The clock's own step `TICK` (R84). -/
  | tick
  /-- `ZC.PC(d)` (R84). -/
  | zcPC (d : BitVec 16)
  /-- `ZC.CS(d)` (R84). -/
  | zcCS (d : BitVec 16)
  /-- `CMD(w)` (R80). -/
  | cmd (w : Word)
  /-- A clock in which `rst = 1` (R280). -/
  | rst
deriving DecidableEq, Repr

/-- The state of an instance. The register file and the pin vector have the largest sizes R8 allows; only channels below
`params.nCh` and pins below `params.nPins` exist (log 7). -/
structure State where
  /-- The instance's parameters (R8), written by no step. -/
  params : Params
  /-- `LUT[0..79]`, a ROM (R42). -/
  lut : FiringDelayTable
  /-- `CH[0..N_CH-1]` (R21). -/
  chans : Vector Channel 16
  /-- `PIN[0..N_PINS-1]`, bit `p` is `PIN[p]` (R36). -/
  pins : BitVec 32
  /-- `U[PC]`. -/
  upc : PcUnit
  /-- `U[CS]`. -/
  ucs : CsUnit
  /-- `ERRFLAGS` (R41). -/
  errFlags : BitVec 8
  /-- The model's own field: the response outputs after the latest step; no rule reads it (log 3). -/
  rsp : Response
  /-- The model's own field: the steps the environment still presents, the next one first (log 1). -/
  inputs : List Input
deriving DecidableEq, Repr

/-- Why a step stops with a fault: it never does. "There is no fatal state and no halted state" (R256); every error of R251 is a
flag, recorded in a next state (log 11). -/
inductive Fault where
deriving DecidableEq, Repr

/-- Why the model has no meaning for an instruction. -/
inductive Refusal where
  /-- Raised by `exec` for an instruction without a meaning; safe, since nothing is then claimed of it. No arm raises it. -/
  | notModelled (mnemonic : String)
deriving DecidableEq, Repr

/-- What a step answers. -/
abbrev Result := Host.Outcome State Fault Refusal

/-- A channel slot after reset (R46). -/
def Channel.reset : Channel where
  duty := 0
  limit := 0x10000
  dutyMin := 0
  dutyMax := 0x10000
  mapped := 0
  fire := 0
  enabled := false
  online := false
  lutEn := false
  mode := .pc
  pinsel := 0
  pend := none
  debt := 0
  bal := 0

/-- The state after reset of the instance with these parameters and this table (R46, R280), no further step being presented. -/
def State.resetOf (params : Params) (lut : FiringDelayTable) : State where
  params := params
  lut := lut
  chans := Vector.replicate 16 Channel.reset
  pins := 0
  upc := { semi := 0, count := 0, alarm := 0, armed := false }
  ucs := { semi := 0, count := 0, pol := false }
  errFlags := 0
  rsp := { err := false, data := 0 }
  inputs := []

/-- The machine right after reset (R280), at the instance of `Config`. -/
def State.reset : State := State.resetOf Config.params Config.lut

end Sys2Proof.Machine
end

