-- ==== Sys2Proof/Machine/Ops.lean ====
section
/-! DEFINITION. The named operations over the state: register access, the iteration of R14, `raise` (R250, which stands where
another machine takes an exception; there is no return, R255), and the internal procedures that several families share:
`rearm` (R167), `apply` (R113), `set_duty` (R111), `start_unit` (R162), `stop_unit` (R164). -/

namespace Sys2Proof.Machine

/-- `CH[c]`. -/
def State.chan (s : State) (c : ChanIx) : Channel := s.chans.get c

/-- Replace `CH[c]`. -/
def State.setChan (s : State) (c : ChanIx) (ch : Channel) : State := { s with chans := s.chans.set c.val ch c.isLt }

/-- Channel `c` exists: `c < N_CH` (R21). -/
def State.hasChan (s : State) (c : ChanIx) : Bool := decide (c.val < s.params.nCh)

/-- `PIN[p]`; a pin at or above `N_PINS` does not exist and reads low. -/
def State.pin (s : State) (p : BitVec 8) : Bool := decide (p.toNat < s.params.nPins) && s.pins.getLsbD p.toNat

/-- `PIN[p] <- v`; nothing happens for a pin that does not exist (log 7). -/
def State.setPin (s : State) (p : BitVec 8) (v : Bool) : State :=
  if p.toNat < s.params.nPins then
    { s with pins := if v then s.pins ||| BitVec.twoPow 32 p.toNat else s.pins &&& ~~~(BitVec.twoPow 32 p.toNat) }
  else s

/-- `PIN[CH[c].PINSEL]`. -/
def State.chanPin (s : State) (c : ChanIx) : Bool := s.pin (s.chan c).pinsel

/-- `PIN[CH[c].PINSEL] <- v`. -/
def State.driveChan (s : State) (c : ChanIx) (v : Bool) : State := s.setPin (s.chan c).pinsel v

/-- `CH[c].PEND <- v`. -/
def State.setPend (s : State) (c : ChanIx) (v : Option Ticks) : State := s.setChan c { s.chan c with pend := v }

/-- `U[u].SEMI` (R37). -/
def State.semi (s : State) : UnitId → Ticks
  | .pc => s.upc.semi
  | .cs => s.ucs.semi

/-- `U[u].SEMI <- v`. -/
def State.setSemi (s : State) (u : UnitId) (v : Ticks) : State :=
  match u with
  | .pc => { s with upc := { s.upc with semi := v } }
  | .cs => { s with ucs := { s.ucs with semi := v } }

/-- `U[u].COUNT`, as the 32-bit register (R38). -/
def State.count (s : State) : UnitId → BitVec 32
  | .pc => s.upc.count
  | .cs => s.ucs.count

/-- `U[u].COUNT <- x`, the integer in 32-bit two's complement (R38); every rule's value fits (R236). -/
def State.setCount (s : State) (u : UnitId) (x : Int) : State :=
  match u with
  | .pc => { s with upc := { s.upc with count := BitVec.ofInt 32 x } }
  | .cs => { s with ucs := { s.ucs with count := BitVec.ofInt 32 x } }

/-- Every channel number, ascending. -/
def allChans : List ChanIx := [0, 1, 2, 3, 4, 5, 6, 7, 8, 9, 10, 11, 12, 13, 14, 15]

/-- The channels `0..N_CH-1` with `MODE = u`, ascending, enabled or not (R149). -/
def State.modeChans (s : State) (u : UnitId) : List ChanIx :=
  allChans.filter fun c => s.hasChan c && decide ((s.chan c).mode = u)

/-- `chans(u)`: the existing channels with `ENABLED = 1` and `MODE = u`, ascending (R14). -/
def State.chansOf (s : State) (u : UnitId) : List ChanIx :=
  allChans.filter fun c => s.hasChan c && (s.chan c).enabled && decide ((s.chan c).mode = u)

/-- `run(u)`: `chans(u)` is not empty (R14). -/
def State.run (s : State) (u : UnitId) : Bool := !(s.chansOf u).isEmpty

/-- A `for` loop over channels, in the order of the list (R14). -/
def forChans (l : List ChanIx) (body : ChanIx → State → State) (s : State) : State :=
  l.foldl (fun s c => body c s) s

/-- The errors of R251. -/
inductive ErrorCode where
  | illegal
  | configPin
  | configLut
  | timing
deriving DecidableEq, Repr

/-- An error's code: its bit of `ERRFLAGS` (R251). -/
def ErrorCode.bit : ErrorCode → Nat
  | .illegal => 0
  | .configPin => 1
  | .configLut => 2
  | .timing => 3

/-- Set the sticky flag of an error (R41). -/
def State.setFlag (s : State) (e : ErrorCode) : State :=
  { s with errFlags := s.errFlags ||| BitVec.twoPow 8 e.bit }

/-- `respond (err, data)` (R86). -/
def State.respond (s : State) (err : Bool) (data : Word) : State := { s with rsp := { err := err, data := data } }

/-- The response outputs of a step that is no command: `(0, 0)` (R80). -/
def State.quiet (s : State) : State := s.respond false 0

/-- `raise E` in a command (R250): set the flag of `E`, change no other state, respond `(1, 0)`. -/
def State.raise (s : State) (e : ErrorCode) : State := (s.setFlag e).respond true 0

/-- Run a channel command's body if its channel exists; otherwise the word is illegal (R88 test 2). -/
def onChannel (c : ChanIx) (s : State) (body : State → State) : Result :=
  .next (if s.hasChan c then body s else s.raise .illegal)

/-- The least of the pending delays of a list of channels, `none` if none is pending. -/
def minPend (s : State) : List ChanIx → Option Ticks
  | [] => none
  | c :: rest =>
    match (s.chan c).pend, minPend s rest with
    | none, m => m
    | some t, none => some t
    | some t, some m => some (if t ≤ m then t else m)

/-- `rearm()` (R167): the alarm is the least pending delay of the PC channels; with none pending `ALARM` keeps its value. -/
def rearm (s : State) : State :=
  match minPend s (s.chansOf .pc) with
  | none => { s with upc := { s.upc with armed := false } }
  | some t => { s with upc := { s.upc with alarm := t, armed := true } }

/-- `apply(c)` (R113): the off level is written at once and a pending firing is cancelled. -/
def applyOff (c : ChanIx) (s : State) : State :=
  if (s.chan c).enabled && decide ((s.chan c).fire = 0) then
    let s1 := (s.driveChan c false).setPend c none
    if (s.chan c).mode = .pc then rearm s1 else s1
  else s

/-- What `apply(c)` returns: `ENABLED`, MD's "hardware-apply-succeeded" (R113). -/
def applied (c : ChanIx) (s : State) : Bool := (s.chan c).enabled

/-- The effective duty cycle of an online channel: `fire_of(c)` (R26). -/
def fireOf (s : State) (ch : Channel) : Duty :=
  if ch.lutEn then BitVec.ofNat 17 (lutFire s.lut ch.mapped.toNat (s.semi ch.mode).toNat) else ch.mapped

/-- The register writes of `set_duty(c, v)` before `apply` (R111). -/
def storeDuty (c : ChanIx) (v : Int) (s : State) : State :=
  let ch := s.chan c
  let duty := clampDuty v 0 ch.limit.toNat
  let mapped := BitVec.ofNat 17 (remap duty.toNat ch.dutyMin.toNat ch.dutyMax.toNat)
  let ch' := { ch with duty := duty, mapped := mapped }
  s.setChan c { ch' with fire := if ch.online then fireOf s ch' else 0 }

/-- `set_duty(c, v)` (R111): store the clamped duty, recompute `MAPPED` and `FIRE`, and apply it when online. -/
def setDuty (c : ChanIx) (v : Int) (s : State) : State :=
  let s1 := storeDuty c v s
  if (s1.chan c).online then applyOff c s1 else s1

/-- What `set_duty(c, v)` returns, read in the state it leaves: `online && hardware-apply-succeeded` (R111). -/
def setDutyResult (c : ChanIx) (s : State) : Bool := (s.chan c).online && applied c s

/-- `set_duty(c, CH[c].DUTY)`, by which a configuration command propagates (R111). -/
def reapply (c : ChanIx) (s : State) : State := setDuty c (s.chan c).duty.toNat s

/-- `start_unit(u)` (R162): the counter is zeroed and, for CS, the polarity cleared. -/
def startUnit (u : UnitId) (s : State) : State :=
  match u with
  | .pc => s.setCount .pc 0
  | .cs => let s1 := s.setCount .cs 0; { s1 with ucs := { s1.ucs with pol := false } }

/-- `stop_unit(u)` (R164): the counter is zeroed. -/
def stopUnit (u : UnitId) (s : State) : State := s.setCount u 0

end Sys2Proof.Machine
end

