-- ==== Sys2Proof/Machine/Duty.lean ====
section
/-! DEFINITION. The DutyCycleController commands (R110, R114 to R117). Each runs on an existing channel; otherwise its word is
illegal (R88 test 2). -/

namespace Sys2Proof.Machine

/-- `SETDUTY c, #v` (R110): the answer is what `set_duty` returns. -/
def execSetDuty (c : ChanIx) (v : BitVec 24) (s : State) : Result :=
  onChannel c s fun s =>
    let s1 := setDuty c (operandD v) s
    s1.respond false (viewBit (setDutyResult c s1))

/-- `SETLIMIT c, #v` (R114): `LIMIT <- clamp(v, 0, 0x10000)`, then propagate. -/
def execSetLimit (c : ChanIx) (v : BitVec 24) (s : State) : Result :=
  onChannel c s fun s =>
    let s1 := s.setChan c { s.chan c with limit := clampDuty (operandD v) 0 0x10000 }
    (reapply c s1).respond false 1

/-- `SETMIN c, #v` (R115): `MIN <- clamp(v, 0, MAX)`, then propagate. -/
def execSetMin (c : ChanIx) (v : BitVec 24) (s : State) : Result :=
  onChannel c s fun s =>
    let s1 := s.setChan c { s.chan c with dutyMin := clampDuty (operandD v) 0 (s.chan c).dutyMax.toNat }
    (reapply c s1).respond false 1

/-- `SETMAX c, #v` (R116): `MAX <- clamp(v, MIN, 0x10000)`, then propagate. -/
def execSetMax (c : ChanIx) (v : BitVec 24) (s : State) : Result :=
  onChannel c s fun s =>
    let s1 := s.setChan c { s.chan c with dutyMax := clampDuty (operandD v) (s.chan c).dutyMin.toNat 0x10000 }
    (reapply c s1).respond false 1

/-- `SETONLINE c, b` (R117): going online re-applies the stored duty, going offline forces `FIRE = 0` and writes it at once. -/
def execSetOnline (c : ChanIx) (b : Bool) (s : State) : Result :=
  onChannel c s fun s =>
    let s1 := s.setChan c { s.chan c with online := b }
    let s2 := if b then reapply c s1 else applyOff c (s1.setChan c { s1.chan c with fire := 0 })
    s2.respond false 1

end Sys2Proof.Machine
end

