-- ==== Sys2Proof/Machine/Lifecycle.lean ====
section
/-! DEFINITION. The lifecycle commands `BEGIN` and `END` (R160 to R164). -/

namespace Sys2Proof.Machine

/-- Another enabled channel drives pin `p` (the second test of R161). -/
def pinOwned (c : ChanIx) (p : BitVec 8) (s : State) : Bool :=
  allChans.any fun k => s.hasChan k && decide (k ≠ c) && (s.chan k).enabled && decide ((s.chan k).pinsel = p)

/-- A successful `BEGIN` (R161): register the channel, take the pin low, start the unit if it was stopped, propagate. -/
def register (c : ChanIx) (m : UnitId) (p : BitVec 8) (s : State) : State :=
  let s1 := s.setChan c { s.chan c with mode := m, pinsel := p, enabled := true }
  let s2 := (s1.setPin p false).setPend c none
  let s3 := if s.run m then s2 else startUnit m s2
  reapply c s3

/-- `BEGIN c, m, p` (R161), its tests in the order written. -/
def execBegin (c : ChanIx) (m : UnitId) (p : BitVec 8) (s : State) : Result :=
  onChannel c s fun s =>
    if (s.chan c).enabled then s.respond false 1
    else if decide (s.params.nPins ≤ p.toNat) || pinOwned c p s then s.raise .configPin
    else if (s.chan c).lutEn && decide (s.semi m = 0) then s.raise .configLut
    else (register c m p s).respond false 1

/-- What `END` does to an enabled channel (R163): pin low, nothing pending, not registered, the unit stopped with its last
channel, the alarm recomputed. -/
def unregister (c : ChanIx) (s : State) : State :=
  let u := (s.chan c).mode
  let s1 := (s.driveChan c false).setPend c none
  let s2 := s1.setChan c { s1.chan c with enabled := false }
  let s3 := if s2.run u then s2 else stopUnit u s2
  if u = .pc then rearm s3 else s3

/-- `END c` (R163), idempotent. -/
def execEnd (c : ChanIx) (s : State) : Result :=
  onChannel c s fun s =>
    (if (s.chan c).enabled then unregister c s else s).respond false 1

end Sys2Proof.Machine
end

