-- ==== Sys2Proof/Machine/Mapper.lean ====
section
/-! DEFINITION. The PhaseAngleMapper's commands `SETLUT` and `SETSEMI` (R148, R149). -/

namespace Sys2Proof.Machine

/-- `SETLUT c, b` (R148): refused when the table would be enabled without a known semi-period. -/
def execSetLut (c : ChanIx) (b : Bool) (s : State) : Result :=
  onChannel c s fun s =>
    if b && decide (s.semi (s.chan c).mode = 0) then s.raise .configLut
    else (reapply c (s.setChan c { s.chan c with lutEn := b })).respond false 1

/-- A channel of unit `u`, enabled or not, uses the table (the refusal test of R149). -/
def lutInUse (u : UnitId) (s : State) : Bool := (s.modeChans u).any fun c => (s.chan c).lutEn

/-- The register writes of an accepted `SETSEMI` (R149): `SEMI`, the idle CS counter (R205), and every channel of the unit. -/
def storeSemi (u : UnitId) (p : Ticks) (s : State) : State :=
  let s1 := s.setSemi u p
  let s2 := if u = .cs ∧ p = 0 then s1.setCount .cs 0 else s1
  forChans (s2.modeChans u) reapply s2

/-- `SETSEMI u, s` (R149): refused when the semi-period is cleared under a channel that uses the table. -/
def execSetSemi (u : UnitId) (p : Ticks) (s : State) : Result :=
  .next (if decide (p = 0) && lutInUse u s then s.raise .configLut else (storeSemi u p s).respond false 1)

end Sys2Proof.Machine
end

