-- ==== Sys2Proof/Machine/Flags.lean ====
section
/-! DEFINITION. The derived predicates and the status views: `ISON`, `ISFULL`, `PHASE` (R35), `CTRL` (R232), `USTAT` (R233). PAFC
has no condition codes; the sticky error bits are set by `State.setFlag` (R41). -/

namespace Sys2Proof.Machine

/-- `ISON(c)` (R35). -/
def isOn (ch : Channel) : Bool := ch.online && decide (0 < ch.duty.toNat)

/-- `ISFULL(c)`, taken literally (R35). -/
def isFull (ch : Channel) : Bool := decide (ch.dutyMax ≤ ch.duty)

/-- The states of a registered actuator (R35). -/
inductive Phase where
  | off
  | waiting
  | conducting
deriving DecidableEq, Repr

/-- The code of a phase; 3 never occurs (R35). -/
def Phase.code : Phase → BitVec 2
  | .off => 0
  | .waiting => 1
  | .conducting => 2

/-- `PHASE(c)` (R35). -/
def phase (s : State) (c : ChanIx) : Phase :=
  if !(s.chan c).enabled then .off
  else if (s.chan c).pend.isSome then .waiting
  else if s.chanPin c then .conducting
  else .off

/-- `PINLVL` of the `CTRL` view (R232). -/
def pinLevel (s : State) (c : ChanIx) : Bool := (s.chan c).enabled && s.chanPin c

/-- The `CTRL` view (R232), bits 31 down to 0. -/
def ctrlView (s : State) (c : ChanIx) : Word :=
  let ch := s.chan c
  (0 : BitVec 8) ++ ch.pinsel ++ (0 : BitVec 6) ++ (phase s c).code ++ (0 : BitVec 1) ++ BitVec.ofBool (pinLevel s c)
    ++ BitVec.ofBool (isFull ch) ++ BitVec.ofBool (isOn ch) ++ BitVec.ofBool (decide (ch.mode = .cs))
    ++ BitVec.ofBool ch.lutEn ++ BitVec.ofBool ch.online ++ BitVec.ofBool ch.enabled

/-- `ARMED` as `USTAT` shows it (R233): the register for PC; for CS, running with a known semi-period. -/
def armedView (s : State) : UnitId → Bool
  | .pc => s.upc.armed
  | .cs => s.run .cs && decide (s.ucs.semi ≠ 0)

/-- `POL` as `USTAT` shows it (R233): 0 for PC. -/
def polView (s : State) : UnitId → Bool
  | .pc => false
  | .cs => s.ucs.pol

/-- The `USTAT` view (R233). -/
def ustatView (s : State) (u : UnitId) : Word :=
  (0 : BitVec 29) ++ BitVec.ofBool (polView s u) ++ BitVec.ofBool (armedView s u) ++ BitVec.ofBool (s.run u)

/-- The `PINS` view (R233): bit `p` is `PIN[p]` for `p < N_PINS`, higher bits 0. -/
def pinsView (s : State) : Word := (s.pins.setWidth s.params.nPins).setWidth 32

end Sys2Proof.Machine
end

