-- ==== Sys2Proof/Machine/ReadBack.lean ====
section
/-! DEFINITION. The read-back and housekeeping commands (R230 to R235). A read changes no state (R62). -/

namespace Sys2Proof.Machine

/-- `NOP` (R230): `respond (0, 0)`. -/
def execNop (s : State) : Result := .next (s.respond false 0)

/-- `PEND` as `GET` reads it (R231): `0x00010000` for `NONE`. -/
def pendView : Option Ticks → Word
  | none => 0x00010000
  | some t => viewU t

/-- `view(c, k)` (R231). -/
def chanView (s : State) (c : ChanIx) : ChanSel → Word
  | .duty => viewU (s.chan c).duty
  | .limit => viewU (s.chan c).limit
  | .min => viewU (s.chan c).dutyMin
  | .max => viewU (s.chan c).dutyMax
  | .mapped => viewU (s.chan c).mapped
  | .fire => viewU (s.chan c).fire
  | .ctrl => ctrlView s c
  | .pend => pendView (s.chan c).pend
  | .debt => viewU (s.chan c).debt
  | .bal => viewS (s.chan c).bal

/-- `GET c, k` (R231). -/
def execGet (c : ChanIx) (k : ChanSel) (s : State) : Result :=
  onChannel c s fun s => s.respond false (chanView s c k)

/-- The `ALARM` view (R233): the compare value of the unit, which for CS is its semi-period. -/
def alarmView (s : State) : UnitId → Word
  | .pc => viewU s.upc.alarm
  | .cs => viewU s.ucs.semi

/-- `uview(u, k)` (R233). -/
def unitView (s : State) (u : UnitId) : UnitSel → Word
  | .semi => viewU (s.semi u)
  | .count => viewS (s.count u)
  | .alarm => alarmView s u
  | .ustat => ustatView s u
  | .errflags => viewU s.errFlags
  | .pins => pinsView s

/-- `GETU u, k` (R233). -/
def execGetU (u : UnitId) (k : UnitSel) (s : State) : Result := .next (s.respond false (unitView s u k))

/-- `GETLUT i` (R234). -/
def execGetLut (i : Fin 80) (s : State) : Result := .next (s.respond false (BitVec.ofNat 32 (lutEntry s.lut i.val)))

/-- `CLRERR m` (R235): `ERRFLAGS <- ERRFLAGS and not m`. -/
def execClrErr (m : BitVec 8) (s : State) : Result :=
  .next ({ s with errFlags := s.errFlags &&& ~~~m }.respond false 1)

end Sys2Proof.Machine
end

