-- ==== Sys2Proof/Machine/Dispatch.lean ====
section
/-! DEFINITION. The meaning of every command, one arm per constructor of `Instr` (R85). -/

namespace Sys2Proof.Machine

def exec (i : Instr) (s : State) : Host.Outcome State Fault Refusal :=
  match i with
  | .nop => Sys2Proof.Machine.execNop s
  | .beginChan c m p => Sys2Proof.Machine.execBegin c m p s
  | .endChan c => Sys2Proof.Machine.execEnd c s
  | .setDuty c v => Sys2Proof.Machine.execSetDuty c v s
  | .setLimit c v => Sys2Proof.Machine.execSetLimit c v s
  | .setMin c v => Sys2Proof.Machine.execSetMin c v s
  | .setMax c v => Sys2Proof.Machine.execSetMax c v s
  | .setOnline c b => Sys2Proof.Machine.execSetOnline c b s
  | .setLut c b => Sys2Proof.Machine.execSetLut c b s
  | .setSemi u p => Sys2Proof.Machine.execSetSemi u p s
  | .get c k => Sys2Proof.Machine.execGet c k s
  | .getU u k => Sys2Proof.Machine.execGetU u k s
  | .getLut k => Sys2Proof.Machine.execGetLut k s
  | .clrErr m => Sys2Proof.Machine.execClrErr m s

end Sys2Proof.Machine
end

