-- ==== Sys2Proof/WellFormed.lean ====
section
/-! DEFINITION. When a command is one of an instance with `nCh` channels. Of the value tests of R88 the types of `Instr` carry
all but one: a channel command names a channel below `N_CH` (test 2). -/

namespace Sys2Proof

/-- The command is legal on an instance of `nCh` channels: R88 test (2) does not hold of it. -/
def Instr.wf (nCh : Nat) (i : Instr) : Bool :=
  match i.channel with
  | none => true
  | some c => decide (c.val < nCh)

end Sys2Proof
end

