-- ==== Sys2Proof/Decode.lean ====
section
/-! DEFINITION. The command word (R81, R82): decoding it with the ordered tests of R88, and encoding a command. PAFC has no byte
order (R60), so both work on the 32-bit word itself. -/

namespace Sys2Proof

/-- Which test of R88 makes a word illegal, in the order of the tests. -/
inductive Illegal where
  /-- (1) `op` is `0xE` or `0xF`. -/
  | opcode
  /-- (2) a channel command with `ch >= N_CH`. -/
  | channel
  /-- (3) `SETSEMI` or `GETU` with `ch > 1`. -/
  | unit
  /-- (4) `NOP`, `GETLUT` or `CLRERR` with `ch != 0`. -/
  | channelNotZero
  /-- (5) a reserved bit of `imm` is 1. -/
  | reservedBit
  /-- (6) a selector or a table index out of range. -/
  | selector
deriving DecidableEq, Repr

/-- `op`, bits 31:28 (R81). -/
def opField (w : Word) : BitVec 4 := w.extractLsb' 28 4

/-- `ch`, bits 27:24 (R81). -/
def chField (w : Word) : BitVec 4 := w.extractLsb' 24 4

/-- `imm`, bits 23:0 (R81). -/
def immField (w : Word) : BitVec 24 := w.extractLsb' 0 24

/-- The layout of R81: `op`, `ch`, `imm`, high bits first. -/
def layout (op ch : BitVec 4) (imm : BitVec 24) : Word := op ++ ch ++ imm

/-- The code of a unit (R13): `PC = 0`, `CS = 1`. -/
def UnitId.code : UnitId → Bool
  | .pc => false
  | .cs => true

/-- The unit of a one-bit code. -/
def UnitId.ofCode : Bool → UnitId
  | false => .pc
  | true => .cs

/-- The selector codes of R231. -/
def ChanSel.code : ChanSel → BitVec 8
  | .duty => 0 | .limit => 1 | .min => 2 | .max => 3 | .mapped => 4
  | .fire => 5 | .ctrl => 6 | .pend => 7 | .debt => 8 | .bal => 9

/-- The selector of a code, `none` above 9 (R88 test 6). -/
def ChanSel.ofCode (k : BitVec 8) : Option ChanSel :=
  match k.toNat with
  | 0 => some .duty | 1 => some .limit | 2 => some .min | 3 => some .max | 4 => some .mapped
  | 5 => some .fire | 6 => some .ctrl | 7 => some .pend | 8 => some .debt | 9 => some .bal
  | _ => none

/-- The selector codes of R233. -/
def UnitSel.code : UnitSel → BitVec 8
  | .semi => 0 | .count => 1 | .alarm => 2 | .ustat => 3 | .errflags => 4 | .pins => 5

/-- The selector of a code, `none` above 5 (R88 test 6). -/
def UnitSel.ofCode (k : BitVec 8) : Option UnitSel :=
  match k.toNat with
  | 0 => some .semi | 1 => some .count | 2 => some .alarm | 3 => some .ustat | 4 => some .errflags | 5 => some .pins
  | _ => none

/-- R88 test (2), then the rest of the decoding. -/
def withChannel (nCh : Nat) (w : Word) (k : ChanIx → Except Illegal Instr) : Except Illegal Instr :=
  if (chField w).toNat < nCh then k (chField w).toFin else .error .channel

/-- R88 test (3), then the rest: bits 27:25 of the word are zero and bit 24 names the unit. -/
def withUnit (w : Word) (k : UnitId → Except Illegal Instr) : Except Illegal Instr :=
  if (chField w).toNat ≤ 1 then k (.ofCode ((chField w).getLsbD 0)) else .error .unit

/-- R88 test (4), then the rest. -/
def withoutChannel (w : Word) (k : Except Illegal Instr) : Except Illegal Instr :=
  if chField w = 0 then k else .error .channelNotZero

/-- R88 test (5) for a format whose operand is the low `n` bits of `imm`: all bits from `n` up are zero. -/
def withReserved (n : Nat) (w : Word) (k : Except Illegal Instr) : Except Illegal Instr :=
  if (immField w).toNat < 2 ^ n then k else .error .reservedBit

/-- Format `P` (R82): `imm[7:0] = pin`, `imm[8] = mode`. -/
def decodeBegin (nCh : Nat) (w : Word) : Except Illegal Instr :=
  withChannel nCh w fun c => withReserved 9 w <|
    .ok (.beginChan c (.ofCode ((immField w).getLsbD 8)) ((immField w).extractLsb' 0 8))

/-- Format `D` (R82, R89: no reserved bits). -/
def decodeD (mk : ChanIx → BitVec 24 → Instr) (nCh : Nat) (w : Word) : Except Illegal Instr :=
  withChannel nCh w fun c => .ok (mk c (immField w))

/-- Format `B` (R82): `imm[0] = flag`. -/
def decodeB (mk : ChanIx → Bool → Instr) (nCh : Nat) (w : Word) : Except Illegal Instr :=
  withChannel nCh w fun c => withReserved 1 w <| .ok (mk c ((immField w).getLsbD 0))

/-- `GET`, format `K` (R82) with the selector test of R88 (6). -/
def decodeGet (nCh : Nat) (w : Word) : Except Illegal Instr :=
  withChannel nCh w fun c => withReserved 8 w <|
    match ChanSel.ofCode ((immField w).extractLsb' 0 8) with
    | some k => .ok (.get c k)
    | none => .error .selector

/-- `GETU`, format `K` (R82) with the selector test of R88 (6). -/
def decodeGetU (w : Word) : Except Illegal Instr :=
  withUnit w fun u => withReserved 8 w <|
    match UnitSel.ofCode ((immField w).extractLsb' 0 8) with
    | some k => .ok (.getU u k)
    | none => .error .selector

/-- `GETLUT`, format `I` (R82): the whole of `imm` is the index, legal 0..79 (R88 test 6). -/
def decodeGetLut (w : Word) : Except Illegal Instr :=
  withoutChannel w <|
    if h : (immField w).toNat < 80 then .ok (.getLut ⟨(immField w).toNat, h⟩) else .error .selector

/-- The command a word stands for on an instance of `nCh` channels, or the first test of R88 that makes it illegal (R85, R88). -/
def decode (nCh : Nat) (w : Word) : Except Illegal Instr :=
  match (opField w).toNat with
  | 0x0 => withoutChannel w <| withReserved 0 w <| .ok .nop
  | 0x1 => decodeBegin nCh w
  | 0x2 => withChannel nCh w fun c => withReserved 0 w <| .ok (.endChan c)
  | 0x3 => decodeD .setDuty nCh w
  | 0x4 => decodeD .setLimit nCh w
  | 0x5 => decodeD .setMin nCh w
  | 0x6 => decodeD .setMax nCh w
  | 0x7 => decodeB .setOnline nCh w
  | 0x8 => decodeB .setLut nCh w
  | 0x9 => withUnit w fun u => withReserved 16 w <| .ok (.setSemi u ((immField w).extractLsb' 0 16))
  | 0xA => decodeGet nCh w
  | 0xB => decodeGetU w
  | 0xC => decodeGetLut w
  | 0xD => withoutChannel w <| withReserved 8 w <| .ok (.clrErr ((immField w).extractLsb' 0 8))
  | _ => .error .opcode

/-- The `ch` field of a unit command (R81). -/
def unitField (u : UnitId) : BitVec 4 := (BitVec.ofBool u.code).setWidth 4

/-- The `ch` field of a channel command (R81). -/
def chanField (c : ChanIx) : BitVec 4 := BitVec.ofFin c

/-- The word of a command: `op << 28 | ch << 24 | imm` with `imm` assembled per R82 (R91). -/
def encode : Instr → Word
  | .nop => layout 0x0 0 0
  | .beginChan c m p => layout 0x1 (chanField c) ((BitVec.ofBool m.code ++ p).setWidth 24)
  | .endChan c => layout 0x2 (chanField c) 0
  | .setDuty c v => layout 0x3 (chanField c) v
  | .setLimit c v => layout 0x4 (chanField c) v
  | .setMin c v => layout 0x5 (chanField c) v
  | .setMax c v => layout 0x6 (chanField c) v
  | .setOnline c b => layout 0x7 (chanField c) ((BitVec.ofBool b).setWidth 24)
  | .setLut c b => layout 0x8 (chanField c) ((BitVec.ofBool b).setWidth 24)
  | .setSemi u p => layout 0x9 (unitField u) (p.setWidth 24)
  | .get c k => layout 0xA (chanField c) (k.code.setWidth 24)
  | .getU u k => layout 0xB (unitField u) (k.code.setWidth 24)
  | .getLut i => layout 0xC 0 (BitVec.ofNat 24 i.val)
  | .clrErr m => layout 0xD 0 (m.setWidth 24)

/-- The word the host's table numbers as `w` in `nbits` bits: PAFC's commands are one 32-bit word presented in parallel (R60,
R81), so no byte layout intervenes. Bits of `w` from `nbits` up are not part of it. -/
def tableWord (nbits w : Nat) : Word := BitVec.ofNat 32 (w % 2 ^ nbits)

/-- The command the decoder reads from a table word. It is read with `N_CH = 16`, its largest value, so that every value of the
`ch` field is a channel; what an instance with fewer channels does with the others is in each meaning (log 8). -/
def decodeTableWord (nbits w : Nat) : Option Instr :=
  if w < 2 ^ 32 then (decode 16 (tableWord nbits w)).toOption else none

end Sys2Proof
end

