-- ==== Sys2Proof/Machine/CycleStealing.lean ====
section
/-! DEFINITION. The CycleStealingModulator's events: the boundary (R207), the CSU part of `TICK` (R204, R205) and the step
`ZC.CS` (R208). -/

namespace Sys2Proof.Machine

/-- The polarity of the half-cycle the next boundary decides: `0` is `+1`, `1` is `-1` (R206). -/
def polarity (s : State) : Int := if s.ucs.pol then -1 else 1

/-- Conducting at polarity `p` does not increase `|BAL|` (R207): the balance is zero or of the other sign. -/
def mayConduct (bal p : Int) : Bool := decide (bal = 0) || decide (bal.sign ≠ p)

/-- `min(DEBT + F, 0x3FFFF)` (R207). -/
def addDebt (debt : BitVec 18) (fire : Duty) : Nat := min (debt.toNat + fire.toNat) 0x3FFFF

/-- One channel's decision at a boundary of polarity `p` (R207). -/
def decideChan (p : Int) (c : ChanIx) (s : State) : State :=
  let ch := s.chan c
  if 0x10000 ≤ ch.fire.toNat then s.driveChan c true
  else if ch.fire = 0 then s.driveChan c false
  else
    let debt := addDebt ch.debt ch.fire
    if decide (0x10000 ≤ debt) && mayConduct ch.bal.toInt p then
      (s.driveChan c true).setChan c
        { ch with debt := BitVec.ofNat 18 (debt - 0x10000), bal := BitVec.ofInt 2 (ch.bal.toInt + p) }
    else
      (s.driveChan c false).setChan c { ch with debt := BitVec.ofNat 18 debt }

/-- `boundary()` (R207): every CS channel is decided with the same polarity, then the polarity toggles. -/
def boundary (s : State) : State :=
  let s1 := forChans (s.chansOf .cs) (decideChan (polarity s)) s
  { s1 with ucs := { s1.ucs with pol := !s1.ucs.pol } }

/-- The CSU part of `TICK` (R204). -/
def csTick (s : State) : State :=
  if s.run .cs then
    if s.ucs.semi = 0 then s.setCount .cs 0
    else
      let n := s.ucs.count.toInt + 1
      if (s.ucs.semi.toNat : Int) ≤ n then (boundary (s.setCount .cs n)).setCount .cs 0 else s.setCount .cs n
  else s

/-- The boundary just passed is the nearest (R208): `COUNT` is below half the semi-period, or is 0. R210 states that a `COUNT` of 0
is below `S >> 1`, and it is for every `SEMI` but 1. DESIGN CHOICE (log 14): with `SEMI = 1`, where the pseudocode of R208 would compare
0 with 0 and treat the boundary ahead as the nearest, R210 is followed, so that no `ZC.CS` takes a second boundary in the clock of a
TICK boundary. -/
def boundaryJustPassed (s : State) : Bool :=
  decide (s.ucs.count.toInt < ((s.ucs.semi.toNat >>> 1 : Nat) : Int)) || decide (s.ucs.count = 0)

/-- The step `ZC.CS(d)` (R208, R210): the nearest boundary is moved onto the true zero-cross; ignored while the unit is stopped or
idle. -/
def zcCS (d : BitVec 16) (s : State) : State :=
  if s.run .cs ∧ s.ucs.semi ≠ 0 then
    let t := operandZc d
    if boundaryJustPassed s then s.setCount .cs t
    else if 0 ≤ t then (boundary s).setCount .cs t
    else s.setCount .cs (s.ucs.semi.toNat + t)
  else s

end Sys2Proof.Machine
end

