-- ==== Sys2Proof/Machine/Scheduler.lean ====
section
/-! DEFINITION. The ZeroCrossFiringScheduler's events: the zero-cross step `ZC.PC` (R168 to R171), the PCU part of `TICK` (R173)
and the alarm (R172). -/

namespace Sys2Proof.Machine

/-- The new pending delay of a partly-on channel (R168): the delay of its fire duty cycle, not below the floor. -/
def firingDelay (s : State) (fire : Duty) : Ticks :=
  BitVec.ofNat 16 (max (delayOf fire.toNat s.upc.semi.toNat) s.params.tMinDelay.toNat)

/-- The body of the walk of R168. -/
def zcWalk (c : ChanIx) (s : State) : State :=
  let f := (s.chan c).fire
  if f = 0x10000 then (s.driveChan c true).setPend c none
  else if f = 0 ∨ s.upc.semi = 0 then (s.driveChan c false).setPend c none
  else (s.driveChan c false).setPend c (some (firingDelay s f))

/-- The body of the second loop of R169, with `now = U[PC].COUNT`: an overdue channel is fired in-line or dropped. -/
def zcLate (c : ChanIx) (s : State) : State :=
  match (s.chan c).pend with
  | none => s
  | some t =>
    if (t.toNat : Int) ≤ s.upc.count.toInt then
      let s1 := if s.upc.count.toInt - t.toNat ≤ s.params.tLateMax.toNat then s.driveChan c true else s.setFlag .timing
      s1.setPend c none
    else s

/-- The step `ZC.PC(d)` (R168 to R171); ignored whole while the unit is not running (R170). -/
def zcPC (d : BitVec 16) (s : State) : State :=
  if s.run .pc then
    let s1 := s.setCount .pc (operandZc d)
    let s2 := forChans (s1.chansOf .pc) zcWalk s1
    rearm (forChans (s2.chansOf .pc) zcLate s2)
  else s

/-- The body of the alarm's scan (R172): a channel whose delay has elapsed goes high. -/
def alarmFire (c : ChanIx) (s : State) : State :=
  match (s.chan c).pend with
  | none => s
  | some t => if (t.toNat : Int) ≤ s.upc.count.toInt then (s.driveChan c true).setPend c none else s

/-- `alarm_pc()` (R172). -/
def alarmPc (s : State) : State := rearm (forChans (s.chansOf .pc) alarmFire s)

/-- The PCU part of `TICK` (R173): the counter counts, saturating, and the alarm fires when the counter has reached it. -/
def pcTick (s : State) : State :=
  if s.run .pc then
    let s1 := if s.upc.count.toInt < 0x7FFFFFFF then s.setCount .pc (s.upc.count.toInt + 1) else s
    if s1.upc.armed ∧ (s1.upc.alarm.toNat : Int) ≤ s1.upc.count.toInt then alarmPc s1 else s1
  else s

end Sys2Proof.Machine
end

