-- ==== Sys2Proof/Machine/Clock.lean ====
section
/-! DEFINITION. The steps that are no command (R15), the reset input (R280), and what the ports present in one clock (R80, R84)
as the steps it takes, in the order of R258. -/

namespace Sys2Proof.Machine

/-- The step `TICK`: the PCU part, then the CSU part (R173, R204, R258). -/
def tick (s : State) : State := csTick (pcTick s)

/-- A clock with `rst = 1` (R280): every piece of state takes its reset value; the instance (parameters and table) stays, and so
do the steps the environment still presents, which are no state of PAFC (log 12). -/
def resetState (s : State) : State := { State.resetOf s.params s.lut with inputs := s.inputs }

/-- The ports in one clock: `rst`, `zc_valid`/`zc_delay` of each unit, `cmd_valid`/`cmd`; `none` where the valid bit is 0. -/
structure Clock where
  rst : Bool
  zcPC : Option (BitVec 16)
  zcCS : Option (BitVec 16)
  cmd : Option Word
deriving DecidableEq, Repr

/-- The steps of one clock, in order (R258): TICK always, then the zero-cross steps, then the command; with `rst = 1` no step is
taken (R280). -/
def Clock.steps (k : Clock) : List Input :=
  if k.rst then [.rst]
  else .tick :: ((k.zcPC.map Input.zcPC).toList ++ (k.zcCS.map Input.zcCS).toList ++ (k.cmd.map Input.cmd).toList)

end Sys2Proof.Machine
end

