-- ==== Sys2Proof/Machine/Fetch.lean ====
section
/-! DEFINITION. What a step takes: the environment's next step, and the command a presented word stands for. -/

namespace Sys2Proof.Machine

/-- The environment's next step and the state without it. With nothing listed the clock goes on: a clock with no event and no
command is its TICK (R84, log 2). -/
def nextInput (s : State) : Input × State :=
  match s.inputs with
  | [] => (.tick, s)
  | i :: rest => (i, { s with inputs := rest })

/-- The command a presented word stands for on this instance, or why it is illegal (R88). -/
def fetch (w : Word) (s : State) : Except Illegal Instr := decode s.params.nCh w

/-- An illegal word (R88): `raise Illegal`. -/
def refuseWord (s : State) : State := s.raise .illegal

/-- A step that is no command: its whole effect, the response outputs being `(0, 0)` (R80). -/
def event (s : State) (effect : State → State) : State := effect s.quiet

/-- Present a word: the environment's next step is the command step of `w` (R80). -/
def presentWord (w : Word) (s : State) : State := { s with inputs := .cmd w :: s.inputs }

/-- Present one clock's ports after everything already listed. -/
def presentClock (k : Clock) (s : State) : State := { s with inputs := s.inputs ++ k.steps }

end Sys2Proof.Machine
end

