-- ==== Sys2Proof/Machine/Step.lean ====
section
/-! DEFINITION. One step of the machine (R15): the environment's next step, whole. -/

namespace Sys2Proof.Machine

/-- The step `CMD(w)` (R80): run the command, or refuse an illegal word (R88). -/
def command (w : Word) (s : State) : Host.Outcome State Fault Refusal :=
  match fetch w s with
  | .ok i => exec i s
  | .error _ => .next (refuseWord s)

/-- One step (R15): TICK, ZC.PC, ZC.CS or CMD, or a clock of reset (R280). -/
def step (s : State) : Host.Outcome State Fault Refusal :=
  match nextInput s with
  | (.tick, t) => .next (event t tick)
  | (.zcPC d, t) => .next (event t (zcPC d))
  | (.zcCS d, t) => .next (event t (zcCS d))
  | (.cmd w, t) => command w t
  | (.rst, t) => .next (event t resetState)

/-- The state whose next step is the command step of the table word `w` (log 8). -/
def State.withFetchWord (s : State) (nbits w : Nat) : State := presentWord (tableWord nbits w) s

end Sys2Proof.Machine
end

