-- ==== Sys2Proof/Safety.lean ====
section
/-! DEFINITION. What counts as a safe run of PAFC, in the terms the statements use: the state invariants of R45, and the relations
in which the rules describe what a procedure leaves. They are written from the rules' text, on registers and pins; the loops and
update functions of the machine do not occur in them. -/

namespace Sys2Proof.Machine

/-- Channel `c` exists, is enabled and belongs to unit `u`: `c` is in `chans(u)` (R14). -/
abbrev InUnit (s : State) (u : UnitId) (c : ChanIx) : Prop :=
  c.val < s.params.nCh ∧ (s.chan c).enabled = true ∧ (s.chan c).mode = u

/-- PC channel `c` waits with the pending delay `t` (R32, R167). -/
abbrev Pending (s : State) (c : ChanIx) (t : Ticks) : Prop := InUnit s .pc c ∧ (s.chan c).pend = some t

/-- Enabled channels have pairwise distinct pins, each below `N_PINS` (R31, R45 item 8). -/
structure PinsSeparate (s : State) : Prop where
  inRange : ∀ c : ChanIx, c.val < s.params.nCh → (s.chan c).enabled = true → (s.chan c).pinsel.toNat < s.params.nPins
  distinct : ∀ c d : ChanIx, c.val < s.params.nCh → d.val < s.params.nCh → (s.chan c).enabled = true →
    (s.chan d).enabled = true → (s.chan c).pinsel = (s.chan d).pinsel → c = d

/-- The duty-cycle bounds of a channel are legal: `LIMIT <= ONE`, `MIN <= MAX <= ONE` (R23, R24). -/
abbrev BoundsLegal (ch : Channel) : Prop :=
  ch.limit.toNat ≤ 0x10000 ∧ ch.dutyMin.toNat ≤ ch.dutyMax.toNat ∧ ch.dutyMax.toNat ≤ 0x10000

/-- `MAPPED` as the remap of a duty cycle (R25, R112): the product is truncated. -/
abbrev IsMapped (ch : Channel) : Prop :=
  ch.mapped.toNat = ch.dutyMin.toNat + ch.duty.toNat * (ch.dutyMax.toNat - ch.dutyMin.toNat) / 0x10000

/-- `FIRE` as R26 and R111 derive it from `MAPPED`: 0 offline, the table's value in LUT mode, else `MAPPED`. -/
abbrev IsFire (s : State) (ch : Channel) : Prop :=
  (ch.online = false → ch.fire = 0) ∧
  (ch.online = true → ch.lutEn = false → ch.fire = ch.mapped) ∧
  (ch.online = true → ch.lutEn = true → ch.fire.toNat = lutFire s.lut ch.mapped.toNat (s.semi ch.mode).toNat)

/-- Items 1 to 6 and 9 of R45, of one channel. -/
structure ChannelInv (s : State) (c : ChanIx) : Prop where
  bounds : BoundsLegal (s.chan c)
  duty_le_limit : (s.chan c).duty.toNat ≤ (s.chan c).limit.toNat
  mapped : IsMapped (s.chan c)
  fire : IsFire s (s.chan c)
  fire_le_one : (s.chan c).fire.toNat ≤ 0x10000
  lut_needs_semi : (s.chan c).lutEn = true → s.semi (s.chan c).mode ≠ 0
  pend_waits : (s.chan c).pend ≠ none →
    (s.chan c).enabled = true ∧ (s.chan c).mode = .pc ∧ s.chanPin c = false ∧ (s.chan c).fire ≠ 0
  zero_is_low : (s.chan c).enabled = true → (s.chan c).fire = 0 → s.chanPin c = false
  balance : -1 ≤ (s.chan c).bal.toInt ∧ (s.chan c).bal.toInt ≤ 1

/-- Item 7 of R45: the alarm is armed exactly when a PC channel waits, then holds the least pending delay, and lies ahead of the
counter. -/
structure AlarmInv (s : State) : Prop where
  armed_iff : s.upc.armed = true ↔ ∃ c t, Pending s c t
  is_least : s.upc.armed = true → (∃ c, Pending s c s.upc.alarm) ∧ ∀ c t, Pending s c t → s.upc.alarm ≤ t
  ahead : s.upc.armed = true → s.upc.count.toInt < (s.upc.alarm.toNat : Int)

/-- The state invariants of R45, with the reserved bits of `ERRFLAGS` (R41). -/
structure State.Inv (s : State) : Prop where
  channels : ∀ c : ChanIx, c.val < s.params.nCh → ChannelInv s c
  alarm : AlarmInv s
  pinsSeparate : PinsSeparate s
  pin_owned : ∀ p : BitVec 8, s.pin p = true → ∃ c : ChanIx, c.val < s.params.nCh ∧ (s.chan c).enabled = true ∧ (s.chan c).pinsel = p
  stopped : ∀ u : UnitId, (¬ ∃ c, InUnit s u c) → s.count u = 0
  idle : s.ucs.semi = 0 → s.ucs.count = 0
  reserved : s.errFlags &&& 0xF0 = 0

/-- The safe state of the block (R281): the pin of every enabled channel that is offline or has `FIRE = 0` is low. -/
def State.SafePins (s : State) : Prop :=
  ∀ c : ChanIx, c.val < s.params.nCh → (s.chan c).enabled = true →
    ((s.chan c).online = false ∨ (s.chan c).fire = 0) → s.chanPin c = false

/-- What `raise E` leaves of `s` in a command (R250): the flag of `E` set, the response `(1, 0)`, nothing else changed. -/
abbrev refusedBy (flag : BitVec 8) (s : State) : State :=
  { s with errFlags := s.errFlags ||| flag, rsp := { err := true, data := 0 } }

/-- The other channels are as before. -/
abbrev OtherChans (s t : State) (c : ChanIx) : Prop := ∀ k : ChanIx, k ≠ c → t.chan k = s.chan k

/-- The other pins are as before. -/
abbrev OtherPins (s t : State) (p : BitVec 8) : Prop := ∀ q : BitVec 8, q ≠ p → t.pin q = s.pin q

/-- What no step but reset and the environment touches here: parameters, table, flags, unit CS and the steps still presented. -/
abbrev SameSurroundings (s t : State) : Prop :=
  t.params = s.params ∧ t.lut = s.lut ∧ t.errFlags = s.errFlags ∧ t.ucs = s.ucs ∧ t.inputs = s.inputs

/-- The alarm of `t` is armed exactly when a PC channel of `t` waits and then holds the least pending delay (R167). -/
abbrev AlarmLeast (t : State) : Prop :=
  (t.upc.armed = true ↔ ∃ c x, Pending t c x) ∧
  (t.upc.armed = true → (∃ c, Pending t c t.upc.alarm) ∧ ∀ c x, Pending t c x → t.upc.alarm ≤ x)

/-- `rearm()` took `s`'s alarm registers to `t`'s (R167): recomputed from the pending delays of `t`, `ALARM` unchanged when
nothing is pending; `SEMI` and `COUNT` are not touched. -/
abbrev Rearmed (s t : State) : Prop :=
  AlarmLeast t ∧ (t.upc.armed = false → t.upc.alarm = s.upc.alarm) ∧
  t.upc.semi = s.upc.semi ∧ t.upc.count = s.upc.count

/-- `t` is `s` with the off level of channel `c` written at once (R113): its pin low, nothing pending, the alarm recomputed for a
PC channel; the other pins and unit CS as before. -/
structure WrittenOff (s : State) (c : ChanIx) (t : State) : Prop where
  pin_low : t.pin (s.chan c).pinsel = false
  other_pins : OtherPins s t (s.chan c).pinsel
  pend : (t.chan c).pend = none
  alarm_pc : (s.chan c).mode = .pc → Rearmed s t
  alarm_cs : (s.chan c).mode = .cs → t.upc = s.upc

/-- `t` is what `set_duty(c, v)` leaves of `s` (R111 to R113): the clamped duty, the remap, `FIRE` by mode; an online, enabled
channel whose new `FIRE` is 0 is written off at once, any other keeps its pin and pending delay; nothing else changes. -/
structure DutySet (s : State) (c : ChanIx) (v : Int) (t : State) : Prop where
  duty : ((t.chan c).duty.toNat : Int) = max 0 (min v (s.chan c).limit.toNat)
  mapped : IsMapped (t.chan c)
  fire : IsFire t (t.chan c)
  config : (t.chan c).limit = (s.chan c).limit ∧ (t.chan c).dutyMin = (s.chan c).dutyMin ∧
    (t.chan c).dutyMax = (s.chan c).dutyMax ∧ (t.chan c).enabled = (s.chan c).enabled ∧
    (t.chan c).online = (s.chan c).online ∧ (t.chan c).lutEn = (s.chan c).lutEn ∧
    (t.chan c).mode = (s.chan c).mode ∧ (t.chan c).pinsel = (s.chan c).pinsel
  modulator : (t.chan c).debt = (s.chan c).debt ∧ (t.chan c).bal = (s.chan c).bal
  off : (s.chan c).online = true → (s.chan c).enabled = true → (t.chan c).fire = 0 → WrittenOff s c t
  keep : ¬ ((s.chan c).online = true ∧ (s.chan c).enabled = true ∧ (t.chan c).fire = 0) →
    (t.chan c).pend = (s.chan c).pend ∧ t.pins = s.pins ∧ t.upc = s.upc
  others : OtherChans s t c
  frame : SameSurroundings s t

/-- The response of an accepted command (R86). -/
abbrev Answered (t : State) (data : Word) : Prop := t.rsp = { err := false, data := data }

/-- On an instance of `nCh` channels the word that stands for command `i` is the one with the number `n`, and no other (R81, R82). -/
abbrev EncodedAs (nCh : Nat) (i : Instr) (n : Nat) : Prop := ∀ w : Word, decode nCh w = .ok i ↔ w.toNat = n

/-- The code of a unit in a command word (R13, R81). -/
def unitCode : UnitId → Nat
  | .pc => 0
  | .cs => 1

/-- The selector number of `GET` in the table of R231. -/
def chanSelNumber : ChanSel → Nat
  | .duty => 0
  | .limit => 1
  | .min => 2
  | .max => 3
  | .mapped => 4
  | .fire => 5
  | .ctrl => 6
  | .pend => 7
  | .debt => 8
  | .bal => 9

/-- The selector number of `GETU` in the table of R233. -/
def unitSelNumber : UnitSel → Nat
  | .semi => 0
  | .count => 1
  | .alarm => 2
  | .ustat => 3
  | .errflags => 4
  | .pins => 5

/-- The first test of R88 that makes a word illegal on an instance of `nCh` channels, on the fields of R81 as numbers; `none` for
a legal word. -/
def illegalTest (nCh : Nat) (w : Word) : Option Illegal :=
  let op := w.toNat / 2 ^ 28
  let ch := w.toNat / 2 ^ 24 % 2 ^ 4
  let imm := w.toNat % 2 ^ 24
  if op = 0xE ∨ op = 0xF then some .opcode
  else if (1 ≤ op ∧ op ≤ 8 ∨ op = 0xA) ∧ nCh ≤ ch then some .channel
  else if (op = 9 ∨ op = 0xB) ∧ 1 < ch then some .unit
  else if (op = 0 ∨ op = 0xC ∨ op = 0xD) ∧ ch ≠ 0 then some .channelNotZero
  else if (op = 0 ∨ op = 2) ∧ imm ≠ 0 ∨ op = 1 ∧ 2 ^ 9 ≤ imm ∨ (op = 7 ∨ op = 8) ∧ 2 ≤ imm ∨ op = 9 ∧ 2 ^ 16 ≤ imm ∨
    (op = 0xA ∨ op = 0xB ∨ op = 0xD) ∧ 2 ^ 8 ≤ imm then some .reservedBit
  else if op = 0xA ∧ 9 < imm ∨ op = 0xB ∧ 5 < imm ∨ op = 0xC ∧ 79 < imm then some .selector
  else none

/-- The configuration of a channel: what only the host changes (R260), with the values derived from it. -/
abbrev SameConfiguration (a b : Channel) : Prop :=
  a.duty = b.duty ∧ a.limit = b.limit ∧ a.dutyMin = b.dutyMin ∧ a.dutyMax = b.dutyMax ∧ a.mapped = b.mapped ∧
  a.fire = b.fire ∧ a.enabled = b.enabled ∧ a.online = b.online ∧ a.lutEn = b.lutEn ∧ a.mode = b.mode ∧
  a.pinsel = b.pinsel

/-- The firing delay of a fire duty cycle at a zero-cross (R141, R168), in ticks: the truncated delay, not below the floor. -/
abbrev zcDelay (s : State) (fire : Duty) : Nat :=
  max ((0x10000 - fire.toNat) * s.upc.semi.toNat / 0x10000) s.params.tMinDelay.toNat

/-- A partly-on channel's new firing delay is overdue at counter value `now` by more than `T_LATE_MAX`: the firing is dropped
(R169). -/
abbrev ZcDropped (s : State) (now : Int) (fire : Duty) : Prop :=
  fire ≠ 0x10000 ∧ fire ≠ 0 ∧ s.upc.semi ≠ 0 ∧ (s.params.tLateMax.toNat : Int) < now - zcDelay s fire

/-- A channel of unit PC after the zero-cross step whose counter value is `now` (the `ZC.PC` rows of R166; R168, R169): `high` is
its pin, `pend` its pending delay. -/
def ZcOutcome (s : State) (now : Int) (fire : Duty) (high : Bool) (pend : Option Ticks) : Prop :=
  if fire = 0x10000 then high = true ∧ pend = none
  else if fire = 0 ∨ s.upc.semi = 0 then high = false ∧ pend = none
  else if now < (zcDelay s fire : Int) then high = false ∧ ∃ t, pend = some t ∧ t.toNat = zcDelay s fire
  else if now - zcDelay s fire ≤ s.params.tLateMax.toNat then high = true ∧ pend = none
  else high = false ∧ pend = none

/-- A channel of unit CS after a boundary of polarity `p` (R207), from `a` to `b`; `high` is its pin afterwards. -/
def BoundaryOutcome (p : Int) (a b : Channel) (high : Bool) : Prop :=
  if 0x10000 ≤ a.fire.toNat then high = true ∧ b = a
  else if a.fire = 0 then high = false ∧ b = a
  else
    let debt := min (a.debt.toNat + a.fire.toNat) 0x3FFFF
    SameConfiguration a b ∧ b.pend = a.pend ∧
    if 0x10000 ≤ debt ∧ (a.bal.toInt = 0 ∨ a.bal.toInt.sign ≠ p) then
      high = true ∧ b.debt.toNat = debt - 0x10000 ∧ b.bal.toInt = a.bal.toInt + p
    else high = false ∧ b.debt.toNat = debt ∧ b.bal = a.bal

/-- What a boundary of `s` leaves of unit CS and its channels in `t` (R207). -/
abbrev BoundaryTaken (s t : State) : Prop :=
  t.ucs.semi = s.ucs.semi ∧ t.ucs.pol = !s.ucs.pol ∧
  ∀ c, InUnit s .cs c → BoundaryOutcome (if s.ucs.pol then -1 else 1) (s.chan c) (t.chan c) (t.chanPin c)

/-- The boundary unit CS has just passed is the nearest (R208, R210): its counter is below half the semi-period or is 0. That a counter
of 0 counts as below with `SEMI = 1` too is R210's sentence and the model's choice over the pseudocode of R208 (log 14). -/
abbrev CsNearPassed (s : State) : Prop := s.ucs.count.toInt < (s.ucs.semi.toNat / 2 : Nat) ∨ s.ucs.count.toInt = 0

/-- The CS channels and their pins are as before. -/
abbrev CsChannelsSame (s t : State) : Prop := ∀ c, InUnit s .cs c → t.chan c = s.chan c ∧ t.chanPin c = s.chanPin c

/-- What an event leaves alone: parameters, table, the channels of no unit of it and the pins no channel of it drives. -/
abbrev OutsideUnit (s t : State) (u : UnitId) : Prop :=
  t.params = s.params ∧ t.lut = s.lut ∧ (∀ c, ¬ InUnit s u c → t.chan c = s.chan c) ∧
  ∀ p : BitVec 8, (∀ c, InUnit s u c → (s.chan c).pinsel ≠ p) → t.pin p = s.pin p

/-- `b` is `s` with channel `c` registered with unit `m` on pin `p`, before its duty is re-applied (R161, R162): the three fields,
nothing pending, the pin low, and the unit started if it was stopped. -/
structure Begun (s : State) (c : ChanIx) (m : UnitId) (p : BitVec 8) (b : State) : Prop where
  registered : b.chan c = { s.chan c with mode := m, pinsel := p, enabled := true, pend := none }
  others : OtherChans s b c
  pin_low : b.pin p = false
  other_pins : OtherPins s b p
  running : (∃ k, InUnit s m k) → b.upc = s.upc ∧ b.ucs = s.ucs
  start_pc : m = .pc → (¬ ∃ k, InUnit s m k) → b.upc = { s.upc with count := 0 } ∧ b.ucs = s.ucs
  start_cs : m = .cs → (¬ ∃ k, InUnit s m k) → b.upc = s.upc ∧ b.ucs = { s.ucs with count := 0, pol := false }
  frame : b.params = s.params ∧ b.lut = s.lut ∧ b.errFlags = s.errFlags ∧ b.inputs = s.inputs

/-- `t` is what `END c` leaves of `s` for an enabled channel (R163, R164): the pin low, nothing pending, not registered; the unit's
counter zeroed with its last channel; the alarm recomputed for a PC channel. -/
structure Ended (s : State) (c : ChanIx) (t : State) : Prop where
  released : t.chan c = { s.chan c with enabled := false, pend := none }
  others : OtherChans s t c
  pin_low : t.pin (s.chan c).pinsel = false
  other_pins : OtherPins s t (s.chan c).pinsel
  last : (¬ ∃ k, k ≠ c ∧ InUnit s (s.chan c).mode k) → t.count (s.chan c).mode = 0
  not_last : (∃ k, k ≠ c ∧ InUnit s (s.chan c).mode k) → t.count (s.chan c).mode = s.count (s.chan c).mode
  pc_unit : (s.chan c).mode = .pc → AlarmLeast t ∧ (t.upc.armed = false → t.upc.alarm = s.upc.alarm) ∧
    t.upc.semi = s.upc.semi ∧ t.ucs = s.ucs
  cs_unit : (s.chan c).mode = .cs → t.upc = s.upc ∧ t.ucs.semi = s.ucs.semi ∧ t.ucs.pol = s.ucs.pol
  frame : t.params = s.params ∧ t.lut = s.lut ∧ t.errFlags = s.errFlags ∧ t.inputs = s.inputs

/-- A channel of the unit whose semi-period `SETSEMI` writes, re-applied (R149 with R111 to R113), from `s` to `t`. -/
structure SemiApplied (s t : State) (c : ChanIx) : Prop where
  duty : (t.chan c).duty.toNat = min (s.chan c).duty.toNat (s.chan c).limit.toNat
  mapped : IsMapped (t.chan c)
  fire : IsFire t (t.chan c)
  kept : (t.chan c).limit = (s.chan c).limit ∧ (t.chan c).dutyMin = (s.chan c).dutyMin ∧
    (t.chan c).dutyMax = (s.chan c).dutyMax ∧ (t.chan c).enabled = (s.chan c).enabled ∧
    (t.chan c).online = (s.chan c).online ∧ (t.chan c).lutEn = (s.chan c).lutEn ∧
    (t.chan c).mode = (s.chan c).mode ∧ (t.chan c).pinsel = (s.chan c).pinsel ∧
    (t.chan c).debt = (s.chan c).debt ∧ (t.chan c).bal = (s.chan c).bal
  pend_off : (s.chan c).online = true → (s.chan c).enabled = true → (t.chan c).fire = 0 → (t.chan c).pend = none
  pend_keep : ¬ ((s.chan c).online = true ∧ (s.chan c).enabled = true ∧ (t.chan c).fire = 0) →
    (t.chan c).pend = (s.chan c).pend

/-- `SETSEMI u` wrote channel `c` off in going from `s` to `t`: registered with `u`, online, and `FIRE` is now 0. -/
abbrev SemiOff (s t : State) (u : UnitId) (c : ChanIx) : Prop :=
  InUnit s u c ∧ (s.chan c).online = true ∧ (t.chan c).fire = 0

/-- The fields of the `CTRL` view (R232), with the derived values of R35. -/
structure CtrlFields (s : State) (c : ChanIx) (d : Word) : Prop where
  enabled : d.getLsbD 0 = (s.chan c).enabled
  online : d.getLsbD 1 = (s.chan c).online
  lutEn : d.getLsbD 2 = (s.chan c).lutEn
  mode : d.getLsbD 3 = true ↔ (s.chan c).mode = .cs
  isOn : d.getLsbD 4 = true ↔ (s.chan c).online = true ∧ 0 < (s.chan c).duty.toNat
  isFull : d.getLsbD 5 = true ↔ (s.chan c).dutyMax.toNat ≤ (s.chan c).duty.toNat
  pinLevel : d.getLsbD 6 = true ↔ (s.chan c).enabled = true ∧ s.chanPin c = true
  phase_off : (s.chan c).enabled = false ∨ ((s.chan c).pend = none ∧ s.chanPin c = false) → d.extractLsb' 8 2 = 0
  phase_waiting : (s.chan c).enabled = true → (s.chan c).pend ≠ none → d.extractLsb' 8 2 = 1
  phase_conducting : (s.chan c).enabled = true → (s.chan c).pend = none → s.chanPin c = true → d.extractLsb' 8 2 = 2
  pinsel : d.extractLsb' 16 8 = (s.chan c).pinsel
  reserved : d.getLsbD 7 = false ∧ d.extractLsb' 10 6 = 0 ∧ d.extractLsb' 24 8 = 0

/-- The fields of the `USTAT` view (R233). -/
structure UstatFields (s : State) (u : UnitId) (d : Word) : Prop where
  run : d.getLsbD 0 = true ↔ ∃ c, InUnit s u c
  armed_pc : u = .pc → d.getLsbD 1 = s.upc.armed
  armed_cs : u = .cs → (d.getLsbD 1 = true ↔ (∃ c, InUnit s .cs c) ∧ s.ucs.semi ≠ 0)
  pol_pc : u = .pc → d.getLsbD 2 = false
  pol_cs : u = .cs → d.getLsbD 2 = s.ucs.pol
  reserved : d.toNat < 8

/-- The effect of one clock without reset on `s` (R258): TICK, then ZC.PC, ZC.CS and CMD where presented. -/
def clockEffect (k : Clock) (s : State) : Result :=
  let s1 := tick s.quiet
  let s2 := match k.zcPC with
    | none => s1
    | some d => zcPC d s1.quiet
  let s3 := match k.zcCS with
    | none => s2
    | some d => zcCS d s2.quiet
  match k.cmd with
  | none => .next s3
  | some w => command w s3

end Sys2Proof.Machine
end

