-- ==== Sys2Proof/Certificates/Slice0/Obligations.lean ====
section
/-! DEFINITION. The statements for the provers, in the order of spec/. A docstring names the rule a statement formalises. -/

open Sys2Proof Sys2Proof.Machine

/-- R88, R81, R82: encoding then decoding gives the command back, with every operand at every value. -/
def Obligations.DecodeOfEncode : Prop :=
  ∀ (nCh : Nat) (i : Instr), i.wf nCh = true → decode nCh (encode i) = .ok i

/-- R88, R81, R82: a legal word is the encoding of what it decodes to, which is a command of the instance. -/
def Obligations.EncodeOfDecode : Prop :=
  ∀ (nCh : Nat) (w : Word) (i : Instr), decode nCh w = .ok i → encode i = w ∧ i.wf nCh = true

/-- R88: the decoder refuses exactly the illegal words, for the first test that holds, and a refused word sets `ERRFLAGS.ILLEGAL`,
answers `(1, 0)` and changes nothing else. -/
def Obligations.IllegalWordsRefused : Prop :=
  ∀ (s : State) (w : Word) (rest : List Input), s.inputs = .cmd w :: rest →
    (∀ e, decode s.params.nCh w = .error e ↔ illegalTest s.params.nCh w = some e) ∧
    (illegalTest s.params.nCh w ≠ none → step s = .next (refusedBy 1 { s with inputs := rest }))

/-- R80, R15: the step of a presented legal word is the command it decodes to, on the state without that input. -/
def Obligations.StepRunsDecodedCommand : Prop :=
  ∀ (s : State) (w : Word) (rest : List Input) (i : Instr), s.inputs = .cmd w :: rest →
    decode s.params.nCh w = .ok i → step s = exec i { s with inputs := rest }

/-- Words the spec writes out, of each operand format, decode to the commands it says (examples of R91, R148, R163, R215, R233, R234
and R235), and two of 95_test_vectors.md section 3.1 are refused. The zero word is NOP (R230). -/
def Obligations.SpecWordsDecode : Prop :=
  decode 8 0x12000105 = .ok (.beginChan 2 .cs 5) ∧ decode 8 0x31008000 = .ok (.setDuty 1 0x008000) ∧
  decode 8 0x90002710 = .ok (.setSemi .pc 10000) ∧ decode 8 0xA3000005 = .ok (.get 3 .fire) ∧
  decode 8 0xB0000003 = .ok (.getU .pc .ustat) ∧ decode 8 0xC0000027 = .ok (.getLut 39) ∧
  decode 8 0xD0000004 = .ok (.clrErr 4) ∧ decode 8 0x21000000 = .ok (.endChan 1) ∧
  decode 8 0x00000000 = .ok .nop ∧ decode 8 0x70000001 = .ok (.setOnline 0 true) ∧ decode 8 0x80000001 = .ok (.setLut 0 true) ∧
  decode 8 0x18000005 = .error .channel ∧ decode 8 0xE0000000 = .error .opcode

/-- The model's choice (log 7): a meaning run on a channel at or above `N_CH` answers `raise Illegal`. By R88 test (2) no such word
reaches a meaning; the statement says that the meanings agree with that refusal. -/
def Obligations.MissingChannelIsIllegal : Prop :=
  ∀ (i : Instr) (c : ChanIx) (s : State), i.channel = some c → s.params.nCh ≤ c.val → exec i s = .next (refusedBy 1 s)

/-- R112: the remap is exact at both ends, monotone, and within `1/65536` below the real-number value. -/
def Obligations.RemapExactMonotone : Prop :=
  ∀ lo hi d e : Nat, lo ≤ hi → hi ≤ 0x10000 → d ≤ e → e ≤ 0x10000 →
    remap d lo hi = lo + d * (hi - lo) / 0x10000 ∧ remap 0 lo hi = lo ∧ remap 0x10000 lo hi = hi ∧
    remap d lo hi ≤ remap e lo hi ∧
    0x10000 * remap d lo hi ≤ 0x10000 * lo + d * (hi - lo) ∧ 0x10000 * lo + d * (hi - lo) < 0x10000 * (remap d lo hi + 1)

/-- R141: the firing delay of a fire duty cycle, its range and the values the rule names. -/
def Obligations.DelayOfRange : Prop :=
  ∀ f semi : Nat, f ≤ 0x10000 → semi ≤ 0xFFFF →
    delayOf f semi = (0x10000 - f) * semi / 0x10000 ∧ delayOf f semi ≤ semi ∧ delayOf 0x10000 semi = 0 ∧
    delayOf 0 semi = semi ∧ (0 < f → 1 ≤ semi → delayOf f semi ≤ semi - 1) ∧ delayOf 0x8000 10000 = 5000

/-- R142, R143: index, fraction and the interpolated value, which lies between the bracketing entries. -/
def Obligations.InterpolationBracketed : Prop :=
  ∀ (t : FiringDelayTable) (m : Nat), 0 < m → m < 0x10000 →
    ∃ (i : Fin 79) (frac : Nat), m * 79 = i.val * 0x10000 + frac ∧ frac < 0x10000 ∧
      let a := (t.entries[i.val]'(by omega)).toNat
      let b := (t.entries[i.val + 1]'(by omega)).toNat
      b ≤ a ∧ lutValue t m = a - (a - b) * frac / 0x10000 ∧ b ≤ lutValue t m ∧ lutValue t m ≤ a ∧
      (lutValue t m = a ↔ (a - b) * frac < 0x10000)

/-- R145: the fire duty cycle of a delay is 1.0 less the quotient rounded up, and the delay survives the round trip exactly. -/
def Obligations.DelayRoundTrip : Prop :=
  ∀ semi delay : Nat, 1 ≤ semi → semi ≤ 0xFFFF → delay ≤ semi →
    (∃ q, q ≤ 0x10000 ∧ fireOfDelay delay semi = 0x10000 - q ∧ delay * 0x10000 ≤ q * semi ∧
      q * semi < delay * 0x10000 + semi) ∧
    delayOf (fireOfDelay delay semi) semi = delay

/-- R146 with R144 and R145: exact at both ends whatever the table; between them the scheduler recovers the table's rounded
delay. -/
def Obligations.LutFireRecoversDelay : Prop :=
  ∀ (t : FiringDelayTable) (m semi : Nat), 1 ≤ semi → semi ≤ 0xFFFF →
    lutFire t 0 semi = 0 ∧ (0x10000 ≤ m → lutFire t m semi = 0x10000) ∧ lutFire t m semi ≤ 0x10000 ∧
    (0 < m → m < 0x10000 → (lutValue t m * semi + 0x8000) / 0x10000 ≤ semi ∧
      lutFire t m semi = fireOfDelay ((lutValue t m * semi + 0x8000) / 0x10000) semi ∧
      delayOf (lutFire t m semi) semi = (lutValue t m * semi + 0x8000) / 0x10000)

/-- R147: the lookup never decreases with the mapped duty cycle, so a larger requested duty cycle never gives a smaller `FIRE`, in
both modes. -/
def Obligations.FireMonotoneInDuty : Prop :=
  (∀ (t : FiringDelayTable) (m n semi : Nat), 1 ≤ semi → semi ≤ 0xFFFF → m ≤ n → n ≤ 0x10000 →
    lutFire t m semi ≤ lutFire t n semi) ∧
  ∀ (s t u : State) (c : ChanIx) (v w : BitVec 24), c.val < s.params.nCh → BoundsLegal (s.chan c) →
    ((s.chan c).lutEn = true → s.semi (s.chan c).mode ≠ 0) → v.toInt ≤ w.toInt → exec (.setDuty c v) s = .next t →
    exec (.setDuty c w) s = .next u → (t.chan c).fire.toNat ≤ (u.chan c).fire.toNat

/-- R110, R111: `SETDUTY` clamps, stores, remaps and applies, and answers whether the channel is online and enabled. -/
def Obligations.SetDutyEffect : Prop :=
  ∀ (s : State) (c : ChanIx) (v : BitVec 24), c.val < s.params.nCh →
    EncodedAs s.params.nCh (.setDuty c v) (0x3 * 2 ^ 28 + c.val * 2 ^ 24 + v.toNat) ∧
    (BoundsLegal (s.chan c) →
      ∃ t, exec (.setDuty c v) s = .next t ∧ DutySet s c v.toInt t ∧
        Answered t (if (s.chan c).online = true ∧ (s.chan c).enabled = true then 1 else 0))

/-- R114: `SETLIMIT` clamps the limit to `[0, 1]` and re-applies the stored duty. -/
def Obligations.SetLimitEffect : Prop :=
  ∀ (s : State) (c : ChanIx) (v : BitVec 24), c.val < s.params.nCh →
    EncodedAs s.params.nCh (.setLimit c v) (0x4 * 2 ^ 28 + c.val * 2 ^ 24 + v.toNat) ∧
    (BoundsLegal (s.chan c) →
      ∃ t l, exec (.setLimit c v) s = .next t ∧ ((l : Duty).toNat : Int) = max 0 (min v.toInt 0x10000) ∧
        DutySet (s.setChan c { s.chan c with limit := l }) c (s.chan c).duty.toNat t ∧ Answered t 1)

/-- R115: `SETMIN` clamps the lower bound to `[0, MAX]`, leaves the upper one and re-applies the stored duty. -/
def Obligations.SetMinEffect : Prop :=
  ∀ (s : State) (c : ChanIx) (v : BitVec 24), c.val < s.params.nCh →
    EncodedAs s.params.nCh (.setMin c v) (0x5 * 2 ^ 28 + c.val * 2 ^ 24 + v.toNat) ∧
    (BoundsLegal (s.chan c) →
      ∃ t l, exec (.setMin c v) s = .next t ∧ ((l : Duty).toNat : Int) = max 0 (min v.toInt (s.chan c).dutyMax.toNat) ∧
        DutySet (s.setChan c { s.chan c with dutyMin := l }) c (s.chan c).duty.toNat t ∧ Answered t 1)

/-- R116: `SETMAX` clamps the upper bound to `[MIN, 1]`, leaves the lower one and re-applies the stored duty. -/
def Obligations.SetMaxEffect : Prop :=
  ∀ (s : State) (c : ChanIx) (v : BitVec 24), c.val < s.params.nCh →
    EncodedAs s.params.nCh (.setMax c v) (0x6 * 2 ^ 28 + c.val * 2 ^ 24 + v.toNat) ∧
    (BoundsLegal (s.chan c) →
      ∃ t l, exec (.setMax c v) s = .next t ∧ ((l : Duty).toNat : Int) = max ((s.chan c).dutyMin.toNat : Int) (min v.toInt 0x10000) ∧
        DutySet (s.setChan c { s.chan c with dutyMax := l }) c (s.chan c).duty.toNat t ∧ Answered t 1)

/-- R117: `SETONLINE` with 1 re-applies the stored duty; with 0 it forces `FIRE = 0` and, on an enabled channel, writes the off
level at once, whatever `DUTY` is. -/
def Obligations.SetOnlineEffect : Prop :=
  ∀ (s : State) (c : ChanIx), c.val < s.params.nCh →
    (∀ b : Bool, EncodedAs s.params.nCh (.setOnline c b) (0x7 * 2 ^ 28 + c.val * 2 ^ 24 + b.toNat)) ∧
    (BoundsLegal (s.chan c) → ∃ t, exec (.setOnline c true) s = .next t ∧
      DutySet (s.setChan c { s.chan c with online := true }) c (s.chan c).duty.toNat t ∧ Answered t 1) ∧
    (∃ t, exec (.setOnline c false) s = .next t ∧
      t.chan c = { s.chan c with online := false, fire := 0, pend := if (s.chan c).enabled then none else (s.chan c).pend } ∧
      ((s.chan c).enabled = true → WrittenOff s c t) ∧
      ((s.chan c).enabled = false → t.pins = s.pins ∧ t.upc = s.upc) ∧
      OtherChans s t c ∧ SameSurroundings s t ∧ Answered t 1)

/-- R118 (a): after `SETLIMIT L` and `SETDUTY d` the stored duty is `d` clamped to `[0, L]`. -/
def Obligations.LimitThenDutyClamps : Prop :=
  ∀ (s : State) (c : ChanIx) (l d : BitVec 24), c.val < s.params.nCh → BoundsLegal (s.chan c) →
    ∃ t u, exec (.setLimit c l) s = .next t ∧ exec (.setDuty c d) t = .next u ∧
      ((u.chan c).duty.toNat : Int) = max 0 (min d.toInt (max 0 (min l.toInt 0x10000)))

/-- R148: enabling the table without a known semi-period is refused with `CFG_LUT`; otherwise the flag is written and the stored
duty re-applied in the new mode. -/
def Obligations.SetLutEffect : Prop :=
  ∀ (s : State) (c : ChanIx) (b : Bool), c.val < s.params.nCh →
    EncodedAs s.params.nCh (.setLut c b) (0x8 * 2 ^ 28 + c.val * 2 ^ 24 + b.toNat) ∧
    (b = true → s.semi (s.chan c).mode = 0 → exec (.setLut c b) s = .next (refusedBy 4 s)) ∧
    (¬ (b = true ∧ s.semi (s.chan c).mode = 0) → BoundsLegal (s.chan c) → ∃ t, exec (.setLut c b) s = .next t ∧
      DutySet (s.setChan c { s.chan c with lutEn := b }) c (s.chan c).duty.toNat t ∧ Answered t 1)

/-- R149: clearing a semi-period under a channel that uses the table is refused with `CFG_LUT`; otherwise it is stored and every
channel of the unit, enabled or not, is re-applied. -/
def Obligations.SetSemiEffect : Prop :=
  ∀ (s : State) (u : UnitId) (p : Ticks),
    EncodedAs s.params.nCh (.setSemi u p) (0x9 * 2 ^ 28 + unitCode u * 2 ^ 24 + p.toNat) ∧
    (p = 0 → (∃ c : ChanIx, c.val < s.params.nCh ∧ (s.chan c).mode = u ∧ (s.chan c).lutEn = true) →
      exec (.setSemi u p) s = .next (refusedBy 4 s)) ∧
    (¬ (p = 0 ∧ ∃ c : ChanIx, c.val < s.params.nCh ∧ (s.chan c).mode = u ∧ (s.chan c).lutEn = true) →
      (∀ c : ChanIx, c.val < s.params.nCh → (s.chan c).mode = u → BoundsLegal (s.chan c)) →
      ∃ t, exec (.setSemi u p) s = .next t ∧ Answered t 1 ∧ t.semi u = p ∧
        (∀ c : ChanIx, c.val < s.params.nCh → (s.chan c).mode = u → SemiApplied s t c) ∧
        (∀ c : ChanIx, ¬ (c.val < s.params.nCh ∧ (s.chan c).mode = u) → t.chan c = s.chan c) ∧
        (∀ q, (∃ c, SemiOff s t u c ∧ (s.chan c).pinsel = q) → t.pin q = false) ∧
        (∀ q, (¬ ∃ c, SemiOff s t u c ∧ (s.chan c).pinsel = q) → t.pin q = s.pin q) ∧
        (u = .pc → t.ucs = s.ucs ∧ t.upc.count = s.upc.count ∧ ((∃ c, SemiOff s t u c) → AlarmLeast t) ∧
          ((¬ ∃ c, SemiOff s t u c) → t.upc.alarm = s.upc.alarm ∧ t.upc.armed = s.upc.armed)) ∧
        (u = .cs → t.upc = s.upc ∧ t.ucs.pol = s.ucs.pol ∧ t.ucs.count = if p = 0 then 0 else s.ucs.count) ∧
        t.params = s.params ∧ t.lut = s.lut ∧ t.errFlags = s.errFlags ∧ t.inputs = s.inputs)

/-- R161, R162, R259: `BEGIN`, its tests in the order written, and what a successful one does. -/
def Obligations.BeginEffect : Prop :=
  ∀ (s : State) (c : ChanIx) (m : UnitId) (p : BitVec 8), c.val < s.params.nCh →
    EncodedAs s.params.nCh (.beginChan c m p) (0x1 * 2 ^ 28 + c.val * 2 ^ 24 + unitCode m * 2 ^ 8 + p.toNat) ∧
    let badPin : Prop := s.params.nPins ≤ p.toNat ∨
      ∃ k : ChanIx, k ≠ c ∧ k.val < s.params.nCh ∧ (s.chan k).enabled = true ∧ (s.chan k).pinsel = p
    let badLut : Prop := (s.chan c).lutEn = true ∧ s.semi m = 0
    ((s.chan c).enabled = true → exec (.beginChan c m p) s = .next { s with rsp := { err := false, data := 1 } }) ∧
    ((s.chan c).enabled = false → badPin → exec (.beginChan c m p) s = .next (refusedBy 2 s)) ∧
    ((s.chan c).enabled = false → ¬ badPin → badLut → exec (.beginChan c m p) s = .next (refusedBy 4 s)) ∧
    ((s.chan c).enabled = false → ¬ badPin → ¬ badLut → BoundsLegal (s.chan c) →
      ∃ b t, exec (.beginChan c m p) s = .next t ∧ Begun s c m p b ∧ DutySet b c (s.chan c).duty.toNat t ∧ Answered t 1)

/-- R163: `END` releases an enabled channel and is idempotent. -/
def Obligations.EndEffect : Prop :=
  ∀ (s : State) (c : ChanIx), c.val < s.params.nCh →
    EncodedAs s.params.nCh (.endChan c) (0x2 * 2 ^ 28 + c.val * 2 ^ 24) ∧
    ((s.chan c).enabled = false → exec (.endChan c) s = .next { s with rsp := { err := false, data := 1 } }) ∧
    ((s.chan c).enabled = true → ∃ t, exec (.endChan c) s = .next t ∧ Ended s c t ∧ Answered t 1)

/-- R230: `NOP` is the zero word exactly, any other word with `op = 0x0` is illegal; it answers `(0, 0)` and writes no state. -/
def Obligations.NopAnswersZero : Prop :=
  ∀ s : State, EncodedAs s.params.nCh .nop 0 ∧
    (∀ w : Word, w.toNat ≠ 0 → w.toNat < 2 ^ 28 → ∃ e, decode s.params.nCh w = .error e) ∧
    exec .nop s = .next { s with rsp := { err := false, data := 0 } }

/-- R231, R232: `GET`, with the selector numbers 0 to 9 of the table, answers the selected view and changes no state. -/
def Obligations.GetReadsView : Prop :=
  ∀ (s : State) (c : ChanIx) (k : ChanSel), c.val < s.params.nCh →
    EncodedAs s.params.nCh (.get c k) (0xA * 2 ^ 28 + c.val * 2 ^ 24 + chanSelNumber k) ∧
    ∃ d : Word, exec (.get c k) s = .next { s with rsp := { err := false, data := d } } ∧
      match k with
      | .duty => d.toNat = (s.chan c).duty.toNat
      | .limit => d.toNat = (s.chan c).limit.toNat
      | .min => d.toNat = (s.chan c).dutyMin.toNat
      | .max => d.toNat = (s.chan c).dutyMax.toNat
      | .mapped => d.toNat = (s.chan c).mapped.toNat
      | .fire => d.toNat = (s.chan c).fire.toNat
      | .ctrl => CtrlFields s c d
      | .pend => ((s.chan c).pend = none → d.toNat = 0x00010000) ∧ ∀ t, (s.chan c).pend = some t → d.toNat = t.toNat
      | .debt => d.toNat = (s.chan c).debt.toNat
      | .bal => d.toInt = (s.chan c).bal.toInt

/-- R233: `GETU`, with the selector numbers 0 to 5 of the table, answers the selected view and changes no state. -/
def Obligations.GetUReadsView : Prop :=
  ∀ (s : State) (u : UnitId) (k : UnitSel),
    EncodedAs s.params.nCh (.getU u k) (0xB * 2 ^ 28 + unitCode u * 2 ^ 24 + unitSelNumber k) ∧
    ∃ d : Word, exec (.getU u k) s = .next { s with rsp := { err := false, data := d } } ∧
      match k with
      | .semi => d.toNat = (s.semi u).toNat
      | .count => d.toInt = (s.count u).toInt
      | .alarm => (u = .pc → d.toNat = s.upc.alarm.toNat) ∧ (u = .cs → d.toNat = s.ucs.semi.toNat)
      | .ustat => UstatFields s u d
      | .errflags => d.toNat = s.errFlags.toNat
      | .pins => ∀ p, d.getLsbD p = (decide (p < s.params.nPins) && s.pins.getLsbD p)

/-- R234: `GETLUT i` answers the table entry and changes no state. -/
def Obligations.GetLutReadsEntry : Prop :=
  ∀ (s : State) (i : Fin 80),
    EncodedAs s.params.nCh (.getLut i) (0xC * 2 ^ 28 + i.val) ∧
    ∃ d : Word, exec (.getLut i) s = .next { s with rsp := { err := false, data := d } } ∧ d.toNat = s.lut.entries[i].toNat

/-- R235: `CLRERR m` clears the flags of its mask and changes nothing else. -/
def Obligations.ClearErrorsByMask : Prop :=
  ∀ (s : State) (m : BitVec 8),
    EncodedAs s.params.nCh (.clrErr m) (0xD * 2 ^ 28 + m.toNat) ∧
    ∃ f : BitVec 8, exec (.clrErr m) s = .next { s with errFlags := f, rsp := { err := false, data := 1 } } ∧
      ∀ j, f.getLsbD j = (s.errFlags.getLsbD j && !m.getLsbD j)

/-- R168 to R171: the zero-cross step of unit PC: the counter reads time since the true zero-cross, every PC channel is full, off,
waiting, fired in-line or dropped, and the alarm is recomputed; ignored whole while the unit is stopped. -/
def Obligations.ZeroCrossPhaseControl : Prop :=
  ∀ (s : State) (d : BitVec 16) (rest : List Input), s.inputs = .zcPC d :: rest → PinsSeparate s →
    ((¬ ∃ c, InUnit s .pc c) → step s = .next { s with inputs := rest, rsp := { err := false, data := 0 } }) ∧
    ((∃ c, InUnit s .pc c) → ∃ t, step s = .next t ∧ t.inputs = rest ∧ Answered t 0 ∧
      t.upc.count.toInt = d.toInt ∧ t.upc.semi = s.upc.semi ∧ t.ucs = s.ucs ∧ OutsideUnit s t .pc ∧
      (∀ c, InUnit s .pc c → t.chan c = { s.chan c with pend := (t.chan c).pend } ∧
        ZcOutcome s d.toInt (s.chan c).fire (t.pin (s.chan c).pinsel) (t.chan c).pend) ∧
      ((∃ c, InUnit s .pc c ∧ ZcDropped s d.toInt (s.chan c).fire) → t.errFlags = s.errFlags ||| 8) ∧
      ((¬ ∃ c, InUnit s .pc c ∧ ZcDropped s d.toInt (s.chan c).fire) → t.errFlags = s.errFlags) ∧
      AlarmLeast t ∧ (t.upc.armed = false → t.upc.alarm = s.upc.alarm) ∧
      (t.upc.armed = true → t.upc.count.toInt < t.upc.alarm.toNat))

/-- R173, R172: the PCU part of TICK: the counter counts up and saturates, and every PC channel whose pending delay it has reached
goes high; a stopped unit keeps its registers. -/
def Obligations.TickPhaseControl : Prop :=
  ∀ (s : State) (rest : List Input), s.inputs = .tick :: rest → PinsSeparate s → AlarmInv s →
    ∃ t, step s = .next t ∧ t.inputs = rest ∧ Answered t 0 ∧
      ((¬ ∃ c, InUnit s .pc c) → t.upc = s.upc) ∧
      ((∃ c, InUnit s .pc c) →
        t.upc.count.toInt = min (s.upc.count.toInt + 1) 0x7FFFFFFF ∧ t.upc.semi = s.upc.semi ∧ AlarmLeast t ∧
        (t.upc.armed = false → t.upc.alarm = s.upc.alarm) ∧
        (∀ c x, Pending s c x → (x.toNat : Int) ≤ t.upc.count.toInt →
          t.chanPin c = true ∧ t.chan c = { s.chan c with pend := none }) ∧
        (∀ c, InUnit s .pc c → (¬ ∃ x, Pending s c x ∧ (x.toNat : Int) ≤ t.upc.count.toInt) →
          t.chanPin c = s.chanPin c ∧ t.chan c = s.chan c))

/-- R204, R205, R207: the CSU part of TICK: stopped, idle, counting, or a boundary when the counter reaches the semi-period; and
what no TICK touches. -/
def Obligations.TickCycleStealing : Prop :=
  ∀ (s : State) (rest : List Input), s.inputs = .tick :: rest → PinsSeparate s →
    ∃ t, step s = .next t ∧
      ((¬ ∃ c, InUnit s .cs c) → t.ucs = s.ucs) ∧
      ((∃ c, InUnit s .cs c) → s.ucs.semi = 0 → t.ucs = { s.ucs with count := 0 } ∧ CsChannelsSame s t) ∧
      ((∃ c, InUnit s .cs c) → s.ucs.semi ≠ 0 → s.ucs.count.toInt + 1 < s.ucs.semi.toNat →
        t.ucs.count.toInt = s.ucs.count.toInt + 1 ∧ t.ucs.semi = s.ucs.semi ∧ t.ucs.pol = s.ucs.pol ∧ CsChannelsSame s t) ∧
      ((∃ c, InUnit s .cs c) → s.ucs.semi ≠ 0 → (s.ucs.semi.toNat : Int) ≤ s.ucs.count.toInt + 1 →
        t.ucs.count = 0 ∧ BoundaryTaken s t) ∧
      (∀ c : ChanIx, ¬ (c.val < s.params.nCh ∧ (s.chan c).enabled = true) → t.chan c = s.chan c) ∧
      (∀ p : BitVec 8, (∀ c : ChanIx, c.val < s.params.nCh → (s.chan c).enabled = true → (s.chan c).pinsel ≠ p) →
        t.pin p = s.pin p) ∧
      t.params = s.params ∧ t.lut = s.lut ∧ t.errFlags = s.errFlags

/-- R208, R210: the zero-cross step of unit CS re-phases the nearest boundary, taking it now if it is the one ahead and the zero-cross is
not early; ignored while the unit is stopped or idle. For `SEMI = 1` and `COUNT = 0`, where half the semi-period is 0, that the event
only re-phases is the model's choice (log 14): it follows R210 where the pseudocode of R208 says otherwise. -/
def Obligations.ZeroCrossCycleStealing : Prop :=
  ∀ (s : State) (d : BitVec 16) (rest : List Input), s.inputs = .zcCS d :: rest → PinsSeparate s →
    (((¬ ∃ c, InUnit s .cs c) ∨ s.ucs.semi = 0) → step s = .next { s with inputs := rest, rsp := { err := false, data := 0 } }) ∧
    ((∃ c, InUnit s .cs c) → s.ucs.semi ≠ 0 →
      ∃ t, step s = .next t ∧ t.inputs = rest ∧ Answered t 0 ∧ t.upc = s.upc ∧ t.errFlags = s.errFlags ∧ OutsideUnit s t .cs ∧
        (CsNearPassed s → t.ucs.count.toInt = d.toInt ∧ t.ucs.semi = s.ucs.semi ∧
          t.ucs.pol = s.ucs.pol ∧ CsChannelsSame s t) ∧
        (¬ CsNearPassed s → 0 ≤ d.toInt →
          t.ucs.count.toInt = d.toInt ∧ BoundaryTaken s t) ∧
        (¬ CsNearPassed s → d.toInt < 0 →
          t.ucs.count.toInt = s.ucs.semi.toNat + d.toInt ∧ t.ucs.semi = s.ucs.semi ∧ t.ucs.pol = s.ucs.pol ∧
          CsChannelsSame s t))

/-- R280, R46: a clock with `rst = 1` takes every piece of state to its reset value; the table is not affected. That the parameters
and the environment's later steps stay is the model's reading (log 12). -/
def Obligations.ResetClock : Prop :=
  ∀ (s : State) (rest : List Input), s.inputs = .rst :: rest →
    ∃ t, step s = .next t ∧ t.params = s.params ∧ t.lut = s.lut ∧ t.inputs = rest ∧ Answered t 0 ∧ t.pins = 0 ∧
      t.upc = { semi := 0, count := 0, alarm := 0, armed := false } ∧ t.ucs = { semi := 0, count := 0, pol := false } ∧
      t.errFlags = 0 ∧
      ∀ c, t.chan c = { duty := 0, limit := 0x10000, dutyMin := 0, dutyMax := 0x10000, mapped := 0, fire := 0,
                        enabled := false, online := false, lutEn := false, mode := .pc, pinsel := 0, pend := none,
                        debt := 0, bal := 0 }

/-- R46: the values of the state right after reset, whatever the instance's open parameters are. -/
def Obligations.ResetValues : Prop :=
  State.reset.lut = Config.lut ∧ State.reset.pins = 0 ∧ State.reset.errFlags = 0 ∧
  State.reset.upc = { semi := 0, count := 0, alarm := 0, armed := false } ∧
  State.reset.ucs = { semi := 0, count := 0, pol := false } ∧
  ∀ c, State.reset.chan c = { duty := 0, limit := 0x10000, dutyMin := 0, dutyMax := 0x10000, mapped := 0, fire := 0,
                              enabled := false, online := false, lutEn := false, mode := .pc, pinsel := 0, pend := none,
                              debt := 0, bal := 0 }

/-- R258: the steps of one clock are TICK, ZC.PC, ZC.CS and CMD in that order, each on what the one before left. -/
def Obligations.ClockTakesStepsInOrder : Prop :=
  ∀ (s : State) (k : Clock) (rest : List Input), k.rst = false →
    Host.Core.run Sys2Proof.core k.steps.length ({ s with inputs := k.steps ++ rest } : State) =
      clockEffect k { s with inputs := rest }

/-- The model's choice (log 2): with no step presented the clock goes on, and a step is a TICK. -/
def Obligations.SilentEnvironmentTicks : Prop :=
  ∀ s : State, s.inputs = [] → step s = step { s with inputs := [.tick] }

/-- R45: the ten state invariants hold after reset of every instance and after every step from a state where they hold. -/
def Obligations.StateInvariantsKept : Prop :=
  (∀ (p : Params) (l : FiringDelayTable), (State.resetOf p l).Inv) ∧
  ∀ s t : State, s.Inv → step s = .next t → t.Inv

/-- R45, R280: the state right after reset satisfies the invariants. -/
def Obligations.ResetSatisfiesInvariants : Prop := State.reset.Inv

/-- R256: there is no fatal state and no halted state; every step goes on. -/
def Obligations.EveryStepGoesOn : Prop := ∀ s : State, ∃ t, step s = .next t

/-- R281: whatever steps the environment presents after reset of any instance, the pin of every enabled channel that is offline or
has `FIRE = 0` is low. -/
def Obligations.OffChannelsStayLow : Prop :=
  ∀ (p : Params) (l : FiringDelayTable) (inputs : List Input) (n : Nat) (t : State),
    Host.Core.run Sys2Proof.core n ({ State.resetOf p l with inputs := inputs } : State) = .next t → t.SafePins

/-- R250, R86: a refused command has had no effect but its flag; an accepted one other than `CLRERR` changes no flag. -/
def Obligations.RefusalIsPrecise : Prop :=
  ∀ (i : Instr) (s t : State), exec i s = .next t →
    (t.rsp.err = true → t = refusedBy 1 s ∨ t = refusedBy 2 s ∨ t = refusedBy 4 s) ∧
    (t.rsp.err = false → (∀ m, i ≠ .clrErr m) → t.errFlags = s.errFlags)

/-- R260: no command drives a pin high or writes `DEBT` or `BAL`; `POL` is written by no command but the `BEGIN` that starts unit CS
(R162, R206; log 13). -/
def Obligations.CommandsNeverRaisePins : Prop :=
  ∀ (i : Instr) (s t : State), exec i s = .next t →
    (∀ p, t.pin p = true → s.pin p = true) ∧
    (∀ c, (t.chan c).debt = (s.chan c).debt ∧ (t.chan c).bal = (s.chan c).bal) ∧
    (t.ucs.pol = s.ucs.pol ∨ t.ucs.pol = false ∧ (¬ ∃ k, InUnit s .cs k) ∧ ∃ c p, i = .beginChan c .cs p)

/-- R260: only the host changes configuration: no event does. -/
def Obligations.EventsKeepConfiguration : Prop :=
  ∀ (s t : State) (i : Input) (rest : List Input), s.inputs = i :: rest → i ≠ .rst → (∀ w, i ≠ .cmd w) → step s = .next t →
    (∀ c, SameConfiguration (s.chan c) (t.chan c)) ∧ (∀ u, t.semi u = s.semi u)

/-- R42, R8: no step writes the table or the parameters. -/
def Obligations.InstanceNeverChanges : Prop :=
  ∀ s t : State, step s = .next t → t.lut = s.lut ∧ t.params = s.params

/-- R236: the CSU counter stays in the range in which its additions are exact. -/
def Obligations.CsCounterStaysInRange : Prop :=
  ∀ s t : State, -32768 ≤ s.ucs.count.toInt → s.ucs.count.toInt ≤ 0xFFFF → step s = .next t →
    -32768 ≤ t.ucs.count.toInt ∧ t.ucs.count.toInt ≤ 0xFFFF

/-- R213: for a fixed target the debt stays below 2.0 and tracks the target: what was owed is the target times the boundaries less
the half-cycles conducted. -/
def Obligations.DebtTracksTarget : Prop :=
  ∀ (s : State) (c : ChanIx) (n : Nat), PinsSeparate s → InUnit s .cs c →
    0 < (s.chan c).fire.toNat → (s.chan c).fire.toNat < 0x10000 → (s.chan c).debt.toNat < 0x10000 →
    -1 ≤ (s.chan c).bal.toInt → (s.chan c).bal.toInt ≤ 1 →
    ((boundary^[n] s).chan c).debt.toNat < 0x20000 ∧
    ((boundary^[n] s).chan c).debt.toNat +
      0x10000 * ((List.range n).filter fun j => (boundary^[j + 1] s).chanPin c).length =
      (s.chan c).debt.toNat + n * (s.chan c).fire.toNat

/-- R204: with no zero-cross reference the CSU is a free-running clock: from a zeroed counter it takes its first boundary after
exactly `SEMI` ticks, whatever unit PC does meanwhile. That a step with nothing presented is a TICK is the model's choice (log 2). -/
def Obligations.FreeRunningBoundary : Prop :=
  ∀ s : State, s.inputs = [] → PinsSeparate s → (∃ c, InUnit s .cs c) → s.ucs.semi ≠ 0 → s.ucs.count = 0 →
    (∀ n : Nat, n < s.ucs.semi.toNat → ∃ t, Host.Core.run Sys2Proof.core n s = .next t ∧ t.ucs.count.toInt = n ∧
      t.ucs.pol = s.ucs.pol ∧ CsChannelsSame s t) ∧
    ∃ t, Host.Core.run Sys2Proof.core s.ucs.semi.toNat s = .next t ∧ t.ucs.count = 0 ∧ BoundaryTaken s t

/-- R173, R175: a PC channel's pin that rises in a TICK rises at counter value exactly its pending delay. -/
def Obligations.AlarmFiresOnTime : Prop :=
  ∀ (s t : State) (rest : List Input) (c : ChanIx), s.Inv → s.inputs = .tick :: rest → step s = .next t → InUnit s .pc c →
    s.chanPin c = false → t.chanPin c = true →
    ∃ x, (s.chan c).pend = some x ∧ t.upc.count.toInt = x.toNat

/-- R210: in a clock with a TICK and a `ZC.CS`, two boundaries are never taken: when the TICK takes one, the `ZC.CS` only re-phases the
counter; when it takes none, at most one is taken. For `SEMI = 1` this is the model's choice over the pseudocode of R208 (log 14). -/
def Obligations.OneBoundaryPerClock : Prop :=
  ∀ (s : State) (d : BitVec 16) (rest : List Input), s.inputs = .tick :: .zcCS d :: rest → PinsSeparate s →
    (∃ c, InUnit s .cs c) → s.ucs.semi ≠ 0 →
    ∃ t, Host.Core.run Sys2Proof.core 2 s = .next t ∧ t.inputs = rest ∧ Answered t 0 ∧
      ((s.ucs.semi.toNat : Int) ≤ s.ucs.count.toInt + 1 → t.ucs.count.toInt = d.toInt ∧ BoundaryTaken s t) ∧
      (s.ucs.count.toInt + 1 < s.ucs.semi.toNat →
        t.ucs.semi = s.ucs.semi ∧ t.ucs.pol = s.ucs.pol ∧ CsChannelsSame s t ∨ BoundaryTaken s t)
end

