-- ==== Sys2Proof/Laws/Encoding.lean ====
section
/-! SUPPORT. The command word and its fields (R81): a laid-out word gives its fields back, and a word is the layout of its
fields. -/

namespace Sys2Proof

@[simp] theorem opField_layout (op ch : BitVec 4) (imm : BitVec 24) : opField (layout op ch imm) = op := by
  apply BitVec.eq_of_getLsbD_eq
  intro i hi
  simp only [opField, layout, BitVec.getLsbD_extractLsb', BitVec.getLsbD_append]
  have h1 : ¬ 28 + i < 24 := by omega
  have h2 : ¬ 28 + i - 24 < 4 := by omega
  simp [hi, h1, h2, show 28 + i - 24 - 4 = i by omega]

@[simp] theorem chField_layout (op ch : BitVec 4) (imm : BitVec 24) : chField (layout op ch imm) = ch := by
  apply BitVec.eq_of_getLsbD_eq
  intro i hi
  simp only [chField, layout, BitVec.getLsbD_extractLsb', BitVec.getLsbD_append]
  have h1 : ¬ 24 + i < 24 := by omega
  have h2 : 24 + i - 24 < 4 := by omega
  simp [hi, show 24 + i - 24 = i by omega]

@[simp] theorem immField_layout (op ch : BitVec 4) (imm : BitVec 24) : immField (layout op ch imm) = imm := by
  apply BitVec.eq_of_getLsbD_eq
  intro i hi
  simp only [immField, layout, BitVec.getLsbD_extractLsb', BitVec.getLsbD_append]
  simp [hi]

/-- A word is the layout of its fields. -/
theorem layout_fields (w : Word) : layout (opField w) (chField w) (immField w) = w := by
  apply BitVec.eq_of_getLsbD_eq
  intro i hi
  simp only [opField, chField, immField, layout, BitVec.getLsbD_extractLsb', BitVec.getLsbD_append]
  by_cases h1 : i < 24
  · simp [h1]
  · by_cases h2 : i - 24 < 4
    · simp [h1, h2, show 24 + (i - 24) = i by omega]
    · simp [h1, h2, show 28 + (i - 24 - 4) = i by omega]; omega

/-- The fields of R81 as numbers. -/
theorem opField_toNat (w : Word) : (opField w).toNat = w.toNat / 2 ^ 28 := by
  have := w.isLt
  simp only [opField, BitVec.extractLsb'_toNat, Nat.shiftRight_eq_div_pow]
  exact Nat.mod_eq_of_lt (by omega)

theorem chField_toNat (w : Word) : (chField w).toNat = w.toNat / 2 ^ 24 % 2 ^ 4 := by
  simp only [chField, BitVec.extractLsb'_toNat, Nat.shiftRight_eq_div_pow]

theorem immField_toNat (w : Word) : (immField w).toNat = w.toNat % 2 ^ 24 := by
  simp [immField, BitVec.extractLsb'_toNat]

@[simp] theorem ofCode_code (u : UnitId) : UnitId.ofCode u.code = u := by cases u <;> rfl
@[simp] theorem code_ofCode (b : Bool) : (UnitId.ofCode b).code = b := by cases b <;> rfl
@[simp] theorem chanSel_ofCode_code (k : ChanSel) : ChanSel.ofCode k.code = some k := by cases k <;> rfl
@[simp] theorem unitSel_ofCode_code (k : UnitSel) : UnitSel.ofCode k.code = some k := by cases k <;> rfl

/-- A selector code is read as one selector only. -/
theorem chanSel_code_of_ofCode {k : BitVec 8} {x : ChanSel} (h : ChanSel.ofCode k = some x) : x.code = k := by
  revert h x; revert k; decide

theorem unitSel_code_of_ofCode {k : BitVec 8} {x : UnitSel} (h : UnitSel.ofCode k = some x) : x.code = k := by
  revert h x; revert k; decide

/-- The selector codes out of range (R88 test 6). -/
theorem chanSel_ofCode_isSome (k : BitVec 8) : (ChanSel.ofCode k).isSome = decide (k.toNat ≤ 9) := by revert k; decide

theorem unitSel_ofCode_isSome (k : BitVec 8) : (UnitSel.ofCode k).isSome = decide (k.toNat ≤ 5) := by revert k; decide

/-- `withReserved n` passes a zero-extended operand of `n` bits. -/
theorem setWidth_lt {n : Nat} (v : BitVec n) (m : Nat) : (v.setWidth m).toNat < 2 ^ n := by
  rw [BitVec.toNat_setWidth]
  exact Nat.lt_of_le_of_lt (Nat.mod_le _ _) v.isLt

/-- The unit field of `unitField u` (R81). -/
theorem unitField_toNat (u : UnitId) : (unitField u).toNat ≤ 1 := by cases u <;> decide

theorem ofCode_unitField (u : UnitId) : UnitId.ofCode ((unitField u).getLsbD 0) = u := by cases u <;> rfl

end Sys2Proof
end

