-- ==== Sys2Proof/Laws/State.lean ====
section
/-! SUPPORT. The field lemmas of the state updates of Machine/Ops.lean: one per field per update, so that no later proof unfolds a
record update. -/

namespace Sys2Proof.Machine

@[simp] theorem hasChan_eq (s : State) (c : ChanIx) : s.hasChan c = decide (c.val < s.params.nCh) := rfl

@[simp] theorem setChan_params (s : State) (c : ChanIx) (x : Channel) : (s.setChan c x).params = s.params := rfl
@[simp] theorem setChan_lut (s : State) (c : ChanIx) (x : Channel) : (s.setChan c x).lut = s.lut := rfl
@[simp] theorem setChan_pins (s : State) (c : ChanIx) (x : Channel) : (s.setChan c x).pins = s.pins := rfl
@[simp] theorem setChan_upc (s : State) (c : ChanIx) (x : Channel) : (s.setChan c x).upc = s.upc := rfl
@[simp] theorem setChan_ucs (s : State) (c : ChanIx) (x : Channel) : (s.setChan c x).ucs = s.ucs := rfl
@[simp] theorem setChan_errFlags (s : State) (c : ChanIx) (x : Channel) : (s.setChan c x).errFlags = s.errFlags := rfl
@[simp] theorem setChan_rsp (s : State) (c : ChanIx) (x : Channel) : (s.setChan c x).rsp = s.rsp := rfl
@[simp] theorem setChan_inputs (s : State) (c : ChanIx) (x : Channel) : (s.setChan c x).inputs = s.inputs := rfl
@[simp] theorem setPend_params (s : State) (c : ChanIx) (x : Option Ticks) : (s.setPend c x).params = s.params := rfl
@[simp] theorem setPend_lut (s : State) (c : ChanIx) (x : Option Ticks) : (s.setPend c x).lut = s.lut := rfl
@[simp] theorem setPend_pins (s : State) (c : ChanIx) (x : Option Ticks) : (s.setPend c x).pins = s.pins := rfl
@[simp] theorem setPend_upc (s : State) (c : ChanIx) (x : Option Ticks) : (s.setPend c x).upc = s.upc := rfl
@[simp] theorem setPend_ucs (s : State) (c : ChanIx) (x : Option Ticks) : (s.setPend c x).ucs = s.ucs := rfl
@[simp] theorem setPend_errFlags (s : State) (c : ChanIx) (x : Option Ticks) : (s.setPend c x).errFlags = s.errFlags := rfl
@[simp] theorem setPend_rsp (s : State) (c : ChanIx) (x : Option Ticks) : (s.setPend c x).rsp = s.rsp := rfl
@[simp] theorem setPend_inputs (s : State) (c : ChanIx) (x : Option Ticks) : (s.setPend c x).inputs = s.inputs := rfl
@[simp] theorem setFlag_params (s : State) (e : ErrorCode) : (s.setFlag e).params = s.params := rfl
@[simp] theorem setFlag_lut (s : State) (e : ErrorCode) : (s.setFlag e).lut = s.lut := rfl
@[simp] theorem setFlag_chans (s : State) (e : ErrorCode) : (s.setFlag e).chans = s.chans := rfl
@[simp] theorem setFlag_pins (s : State) (e : ErrorCode) : (s.setFlag e).pins = s.pins := rfl
@[simp] theorem setFlag_upc (s : State) (e : ErrorCode) : (s.setFlag e).upc = s.upc := rfl
@[simp] theorem setFlag_ucs (s : State) (e : ErrorCode) : (s.setFlag e).ucs = s.ucs := rfl
@[simp] theorem setFlag_rsp (s : State) (e : ErrorCode) : (s.setFlag e).rsp = s.rsp := rfl
@[simp] theorem setFlag_inputs (s : State) (e : ErrorCode) : (s.setFlag e).inputs = s.inputs := rfl
@[simp] theorem respond_params (s : State) (b : Bool) (d : Word) : (s.respond b d).params = s.params := rfl
@[simp] theorem respond_lut (s : State) (b : Bool) (d : Word) : (s.respond b d).lut = s.lut := rfl
@[simp] theorem respond_chans (s : State) (b : Bool) (d : Word) : (s.respond b d).chans = s.chans := rfl
@[simp] theorem respond_pins (s : State) (b : Bool) (d : Word) : (s.respond b d).pins = s.pins := rfl
@[simp] theorem respond_upc (s : State) (b : Bool) (d : Word) : (s.respond b d).upc = s.upc := rfl
@[simp] theorem respond_ucs (s : State) (b : Bool) (d : Word) : (s.respond b d).ucs = s.ucs := rfl
@[simp] theorem respond_errFlags (s : State) (b : Bool) (d : Word) : (s.respond b d).errFlags = s.errFlags := rfl
@[simp] theorem respond_inputs (s : State) (b : Bool) (d : Word) : (s.respond b d).inputs = s.inputs := rfl
@[simp] theorem quiet_params (s : State) : (s.quiet ).params = s.params := rfl
@[simp] theorem quiet_lut (s : State) : (s.quiet ).lut = s.lut := rfl
@[simp] theorem quiet_chans (s : State) : (s.quiet ).chans = s.chans := rfl
@[simp] theorem quiet_pins (s : State) : (s.quiet ).pins = s.pins := rfl
@[simp] theorem quiet_upc (s : State) : (s.quiet ).upc = s.upc := rfl
@[simp] theorem quiet_ucs (s : State) : (s.quiet ).ucs = s.ucs := rfl
@[simp] theorem quiet_errFlags (s : State) : (s.quiet ).errFlags = s.errFlags := rfl
@[simp] theorem quiet_inputs (s : State) : (s.quiet ).inputs = s.inputs := rfl
@[simp] theorem raise_params (s : State) (e : ErrorCode) : (s.raise e).params = s.params := rfl
@[simp] theorem raise_lut (s : State) (e : ErrorCode) : (s.raise e).lut = s.lut := rfl
@[simp] theorem raise_chans (s : State) (e : ErrorCode) : (s.raise e).chans = s.chans := rfl
@[simp] theorem raise_pins (s : State) (e : ErrorCode) : (s.raise e).pins = s.pins := rfl
@[simp] theorem raise_upc (s : State) (e : ErrorCode) : (s.raise e).upc = s.upc := rfl
@[simp] theorem raise_ucs (s : State) (e : ErrorCode) : (s.raise e).ucs = s.ucs := rfl
@[simp] theorem raise_inputs (s : State) (e : ErrorCode) : (s.raise e).inputs = s.inputs := rfl

@[simp] theorem setFlag_errFlags (s : State) (e : ErrorCode) : (s.setFlag e).errFlags = s.errFlags ||| BitVec.twoPow 8 e.bit := rfl
@[simp] theorem raise_errFlags (s : State) (e : ErrorCode) : (s.raise e).errFlags = s.errFlags ||| BitVec.twoPow 8 e.bit := rfl
@[simp] theorem raise_rsp (s : State) (e : ErrorCode) : (s.raise e).rsp = { err := true, data := 0 } := rfl
@[simp] theorem respond_rsp (s : State) (b : Bool) (d : Word) : (s.respond b d).rsp = { err := b, data := d } := rfl
@[simp] theorem quiet_rsp (s : State) : s.quiet.rsp = { err := false, data := 0 } := rfl

@[simp] theorem setPin_params (s : State) (p : BitVec 8) (v : Bool) : (s.setPin p v).params = s.params := by unfold State.setPin; split <;> rfl
@[simp] theorem setPin_lut (s : State) (p : BitVec 8) (v : Bool) : (s.setPin p v).lut = s.lut := by unfold State.setPin; split <;> rfl
@[simp] theorem setPin_chans (s : State) (p : BitVec 8) (v : Bool) : (s.setPin p v).chans = s.chans := by unfold State.setPin; split <;> rfl
@[simp] theorem setPin_upc (s : State) (p : BitVec 8) (v : Bool) : (s.setPin p v).upc = s.upc := by unfold State.setPin; split <;> rfl
@[simp] theorem setPin_ucs (s : State) (p : BitVec 8) (v : Bool) : (s.setPin p v).ucs = s.ucs := by unfold State.setPin; split <;> rfl
@[simp] theorem setPin_errFlags (s : State) (p : BitVec 8) (v : Bool) : (s.setPin p v).errFlags = s.errFlags := by unfold State.setPin; split <;> rfl
@[simp] theorem setPin_rsp (s : State) (p : BitVec 8) (v : Bool) : (s.setPin p v).rsp = s.rsp := by unfold State.setPin; split <;> rfl
@[simp] theorem setPin_inputs (s : State) (p : BitVec 8) (v : Bool) : (s.setPin p v).inputs = s.inputs := by unfold State.setPin; split <;> rfl
@[simp] theorem driveChan_params (s : State) (c : ChanIx) (v : Bool) : (s.driveChan c v).params = s.params := setPin_params s _ v
@[simp] theorem driveChan_lut (s : State) (c : ChanIx) (v : Bool) : (s.driveChan c v).lut = s.lut := setPin_lut s _ v
@[simp] theorem driveChan_chans (s : State) (c : ChanIx) (v : Bool) : (s.driveChan c v).chans = s.chans := setPin_chans s _ v
@[simp] theorem driveChan_upc (s : State) (c : ChanIx) (v : Bool) : (s.driveChan c v).upc = s.upc := setPin_upc s _ v
@[simp] theorem driveChan_ucs (s : State) (c : ChanIx) (v : Bool) : (s.driveChan c v).ucs = s.ucs := setPin_ucs s _ v
@[simp] theorem driveChan_errFlags (s : State) (c : ChanIx) (v : Bool) : (s.driveChan c v).errFlags = s.errFlags := setPin_errFlags s _ v
@[simp] theorem driveChan_rsp (s : State) (c : ChanIx) (v : Bool) : (s.driveChan c v).rsp = s.rsp := setPin_rsp s _ v
@[simp] theorem driveChan_inputs (s : State) (c : ChanIx) (v : Bool) : (s.driveChan c v).inputs = s.inputs := setPin_inputs s _ v
@[simp] theorem setSemi_params (s : State) (u : UnitId) (v : Ticks) : (s.setSemi u v).params = s.params := by cases u <;> rfl
@[simp] theorem setSemi_lut (s : State) (u : UnitId) (v : Ticks) : (s.setSemi u v).lut = s.lut := by cases u <;> rfl
@[simp] theorem setSemi_chans (s : State) (u : UnitId) (v : Ticks) : (s.setSemi u v).chans = s.chans := by cases u <;> rfl
@[simp] theorem setSemi_pins (s : State) (u : UnitId) (v : Ticks) : (s.setSemi u v).pins = s.pins := by cases u <;> rfl
@[simp] theorem setSemi_errFlags (s : State) (u : UnitId) (v : Ticks) : (s.setSemi u v).errFlags = s.errFlags := by cases u <;> rfl
@[simp] theorem setSemi_rsp (s : State) (u : UnitId) (v : Ticks) : (s.setSemi u v).rsp = s.rsp := by cases u <;> rfl
@[simp] theorem setSemi_inputs (s : State) (u : UnitId) (v : Ticks) : (s.setSemi u v).inputs = s.inputs := by cases u <;> rfl
@[simp] theorem setCount_params (s : State) (u : UnitId) (v : Int) : (s.setCount u v).params = s.params := by cases u <;> rfl
@[simp] theorem setCount_lut (s : State) (u : UnitId) (v : Int) : (s.setCount u v).lut = s.lut := by cases u <;> rfl
@[simp] theorem setCount_chans (s : State) (u : UnitId) (v : Int) : (s.setCount u v).chans = s.chans := by cases u <;> rfl
@[simp] theorem setCount_pins (s : State) (u : UnitId) (v : Int) : (s.setCount u v).pins = s.pins := by cases u <;> rfl
@[simp] theorem setCount_errFlags (s : State) (u : UnitId) (v : Int) : (s.setCount u v).errFlags = s.errFlags := by cases u <;> rfl
@[simp] theorem setCount_rsp (s : State) (u : UnitId) (v : Int) : (s.setCount u v).rsp = s.rsp := by cases u <;> rfl
@[simp] theorem setCount_inputs (s : State) (u : UnitId) (v : Int) : (s.setCount u v).inputs = s.inputs := by cases u <;> rfl

@[simp] theorem setSemi_pc_upc (s : State) (v : Ticks) : (s.setSemi .pc v).upc = { s.upc with semi := v } := rfl
@[simp] theorem setSemi_pc_ucs (s : State) (v : Ticks) : (s.setSemi .pc v).ucs = s.ucs := rfl
@[simp] theorem setSemi_cs_upc (s : State) (v : Ticks) : (s.setSemi .cs v).upc = s.upc := rfl
@[simp] theorem setSemi_cs_ucs (s : State) (v : Ticks) : (s.setSemi .cs v).ucs = { s.ucs with semi := v } := rfl
@[simp] theorem setCount_pc_upc (s : State) (x : Int) : (s.setCount .pc x).upc = { s.upc with count := BitVec.ofInt 32 x } := rfl
@[simp] theorem setCount_pc_ucs (s : State) (x : Int) : (s.setCount .pc x).ucs = s.ucs := rfl
@[simp] theorem setCount_cs_upc (s : State) (x : Int) : (s.setCount .cs x).upc = s.upc := rfl
@[simp] theorem setCount_cs_ucs (s : State) (x : Int) : (s.setCount .cs x).ucs = { s.ucs with count := BitVec.ofInt 32 x } := rfl
@[simp] theorem semi_pc (s : State) : s.semi .pc = s.upc.semi := rfl
@[simp] theorem semi_cs (s : State) : s.semi .cs = s.ucs.semi := rfl
@[simp] theorem count_pc (s : State) : s.count .pc = s.upc.count := rfl
@[simp] theorem count_cs (s : State) : s.count .cs = s.ucs.count := rfl

/-- A register of the file after a write to channel `c`. -/
theorem chan_setChan (s : State) (c k : ChanIx) (x : Channel) : (s.setChan c x).chan k = if k = c then x else s.chan k := by
  simp only [State.chan, State.setChan, Vector.get_eq_getElem]
  rw [Vector.getElem_set]
  simp only [eq_comm (a := c.val), Fin.ext_iff]

@[simp] theorem chan_setChan_same (s : State) (c : ChanIx) (x : Channel) : (s.setChan c x).chan c = x := by simp [chan_setChan]
@[simp] theorem chan_setChan_ne (s : State) {c k : ChanIx} (x : Channel) (h : k ≠ c) : (s.setChan c x).chan k = s.chan k := by
  simp [chan_setChan, h]

/-- Channels depend on the register file alone. -/
theorem chan_congr {s t : State} (h : t.chans = s.chans) (c : ChanIx) : t.chan c = s.chan c := by simp [State.chan, h]

@[simp] theorem chan_respond (s : State) (b : Bool) (d : Word) (c : ChanIx) : (s.respond b d).chan c = s.chan c := rfl
@[simp] theorem chan_quiet (s : State) (c : ChanIx) : s.quiet.chan c = s.chan c := rfl
@[simp] theorem chan_setFlag (s : State) (e : ErrorCode) (c : ChanIx) : (s.setFlag e).chan c = s.chan c := rfl
@[simp] theorem chan_raise (s : State) (e : ErrorCode) (c : ChanIx) : (s.raise e).chan c = s.chan c := rfl
@[simp] theorem chan_setPin (s : State) (p : BitVec 8) (v : Bool) (c : ChanIx) : (s.setPin p v).chan c = s.chan c :=
  chan_congr (by simp) c
@[simp] theorem chan_driveChan (s : State) (d : ChanIx) (v : Bool) (c : ChanIx) : (s.driveChan d v).chan c = s.chan c :=
  chan_congr (by simp) c
@[simp] theorem chan_setSemi (s : State) (u : UnitId) (v : Ticks) (c : ChanIx) : (s.setSemi u v).chan c = s.chan c :=
  chan_congr (by simp) c
@[simp] theorem chan_setCount (s : State) (u : UnitId) (x : Int) (c : ChanIx) : (s.setCount u x).chan c = s.chan c :=
  chan_congr (by simp) c
@[simp] theorem chan_upc (s : State) (u : PcUnit) (c : ChanIx) : ({ s with upc := u } : State).chan c = s.chan c := rfl
@[simp] theorem chan_ucs (s : State) (u : CsUnit) (c : ChanIx) : ({ s with ucs := u } : State).chan c = s.chan c := rfl
@[simp] theorem chan_inputs (s : State) (l : List Input) (c : ChanIx) : ({ s with inputs := l } : State).chan c = s.chan c := rfl
@[simp] theorem chan_errFlags (s : State) (e : BitVec 8) (c : ChanIx) : ({ s with errFlags := e } : State).chan c = s.chan c := rfl

/-- Setting the pending delay is a write of that one field. -/
theorem chan_setPend (s : State) (c k : ChanIx) (x : Option Ticks) :
    (s.setPend c x).chan k = if k = c then { s.chan c with pend := x } else s.chan k := chan_setChan s c k _

@[simp] theorem chan_setPend_same (s : State) (c : ChanIx) (x : Option Ticks) :
    (s.setPend c x).chan c = { s.chan c with pend := x } := by simp [chan_setPend]
@[simp] theorem chan_setPend_ne (s : State) {c k : ChanIx} (x : Option Ticks) (h : k ≠ c) :
    (s.setPend c x).chan k = s.chan k := by simp [chan_setPend, h]

/-- `SEMI` and `COUNT` depend on the unit registers alone. -/
theorem semi_congr {s t : State} (h1 : t.upc.semi = s.upc.semi) (h2 : t.ucs.semi = s.ucs.semi) (u : UnitId) :
    t.semi u = s.semi u := by cases u <;> simp [h1, h2]
theorem count_congr {s t : State} (h1 : t.upc.count = s.upc.count) (h2 : t.ucs.count = s.ucs.count) (u : UnitId) :
    t.count u = s.count u := by cases u <;> simp [h1, h2]

@[simp] theorem semi_setChan (s : State) (c : ChanIx) (x : Channel) (u : UnitId) : (s.setChan c x).semi u = s.semi u := semi_congr (by simp) (by simp) u
@[simp] theorem count_setChan (s : State) (c : ChanIx) (x : Channel) (u : UnitId) : (s.setChan c x).count u = s.count u := count_congr (by simp) (by simp) u
@[simp] theorem semi_setPend (s : State) (c : ChanIx) (x : Option Ticks) (u : UnitId) : (s.setPend c x).semi u = s.semi u := semi_congr (by simp) (by simp) u
@[simp] theorem count_setPend (s : State) (c : ChanIx) (x : Option Ticks) (u : UnitId) : (s.setPend c x).count u = s.count u := count_congr (by simp) (by simp) u
@[simp] theorem semi_setFlag (s : State) (e : ErrorCode) (u : UnitId) : (s.setFlag e).semi u = s.semi u := semi_congr (by simp) (by simp) u
@[simp] theorem count_setFlag (s : State) (e : ErrorCode) (u : UnitId) : (s.setFlag e).count u = s.count u := count_congr (by simp) (by simp) u
@[simp] theorem semi_respond (s : State) (b : Bool) (d : Word) (u : UnitId) : (s.respond b d).semi u = s.semi u := semi_congr (by simp) (by simp) u
@[simp] theorem count_respond (s : State) (b : Bool) (d : Word) (u : UnitId) : (s.respond b d).count u = s.count u := count_congr (by simp) (by simp) u
@[simp] theorem semi_quiet (s : State) (u : UnitId) : (s.quiet ).semi u = s.semi u := semi_congr (by simp) (by simp) u
@[simp] theorem count_quiet (s : State) (u : UnitId) : (s.quiet ).count u = s.count u := count_congr (by simp) (by simp) u
@[simp] theorem semi_setPin (s : State) (p : BitVec 8) (v : Bool) (u : UnitId) : (s.setPin p v).semi u = s.semi u := semi_congr (by simp) (by simp) u
@[simp] theorem count_setPin (s : State) (p : BitVec 8) (v : Bool) (u : UnitId) : (s.setPin p v).count u = s.count u := count_congr (by simp) (by simp) u
@[simp] theorem semi_driveChan (s : State) (c : ChanIx) (v : Bool) (u : UnitId) : (s.driveChan c v).semi u = s.semi u := semi_congr (by simp) (by simp) u
@[simp] theorem count_driveChan (s : State) (c : ChanIx) (v : Bool) (u : UnitId) : (s.driveChan c v).count u = s.count u := count_congr (by simp) (by simp) u

@[simp] theorem semi_setCount (s : State) (v : UnitId) (x : Int) (u : UnitId) : (s.setCount v x).semi u = s.semi u := by
  cases u <;> cases v <;> rfl

/-- A pin depends on the parameters and the pin vector alone. -/
theorem pin_congr {s t : State} (hp : t.params = s.params) (h : t.pins = s.pins) (p : BitVec 8) : t.pin p = s.pin p := by
  simp [State.pin, hp, h]

@[simp] theorem pin_setChan (s : State) (c : ChanIx) (x : Channel) (p : BitVec 8) : (s.setChan c x).pin p = s.pin p := rfl
@[simp] theorem pin_setPend (s : State) (c : ChanIx) (x : Option Ticks) (p : BitVec 8) : (s.setPend c x).pin p = s.pin p := rfl
@[simp] theorem pin_respond (s : State) (b : Bool) (d : Word) (p : BitVec 8) : (s.respond b d).pin p = s.pin p := rfl
@[simp] theorem pin_quiet (s : State) (p : BitVec 8) : s.quiet.pin p = s.pin p := rfl
@[simp] theorem pin_setFlag (s : State) (e : ErrorCode) (p : BitVec 8) : (s.setFlag e).pin p = s.pin p := rfl
@[simp] theorem pin_raise (s : State) (e : ErrorCode) (p : BitVec 8) : (s.raise e).pin p = s.pin p := rfl
@[simp] theorem pin_setSemi (s : State) (u : UnitId) (v : Ticks) (p : BitVec 8) : (s.setSemi u v).pin p = s.pin p :=
  pin_congr (by simp) (by simp) p
@[simp] theorem pin_setCount (s : State) (u : UnitId) (x : Int) (p : BitVec 8) : (s.setCount u x).pin p = s.pin p :=
  pin_congr (by simp) (by simp) p
@[simp] theorem pin_upc (s : State) (u : PcUnit) (p : BitVec 8) : ({ s with upc := u } : State).pin p = s.pin p := rfl
@[simp] theorem pin_ucs (s : State) (u : CsUnit) (p : BitVec 8) : ({ s with ucs := u } : State).pin p = s.pin p := rfl
@[simp] theorem pin_inputs (s : State) (l : List Input) (p : BitVec 8) : ({ s with inputs := l } : State).pin p = s.pin p := rfl

/-- Every pin after a write to pin `p`: the written one has the level if it exists, the others are as before. -/
theorem pin_setPin (s : State) (p q : BitVec 8) (v : Bool) :
    (s.setPin p v).pin q = if q = p ∧ p.toNat < s.params.nPins then v else s.pin q := by
  by_cases hp : p.toNat < s.params.nPins
  · have h32 := s.params.nPins_range.2
    by_cases hq : q = p
    · subst hq
      have : q.toNat < 32 := by omega
      cases v <;> simp [State.setPin, State.pin, hp, this]
    · have hne : q.toNat ≠ p.toNat := fun h => hq (BitVec.eq_of_toNat_eq h)
      by_cases hn : q.toNat < s.params.nPins
      · have : q.toNat < 32 := by omega
        cases v <;> simp [State.setPin, State.pin, hp, hq, hne, this]
      · simp [State.setPin, State.pin, hp, hq, hn]
  · simp [State.setPin, hp]

theorem pin_setPin_same (s : State) {p : BitVec 8} (v : Bool) (h : p.toNat < s.params.nPins) : (s.setPin p v).pin p = v := by
  simp [pin_setPin, h]

theorem pin_setPin_ne (s : State) {p q : BitVec 8} (v : Bool) (h : q ≠ p) : (s.setPin p v).pin q = s.pin q := by
  simp [pin_setPin, h]

/-- Taking a pin low leaves it low, whether or not it exists. -/
theorem pin_setPin_low (s : State) (p : BitVec 8) : (s.setPin p false).pin p = false := by
  by_cases h : p.toNat < s.params.nPins
  · simp [pin_setPin, h]
  · simp [State.setPin, State.pin, h]

/-- Taking a pin low raises none. -/
theorem pin_setPin_false_le (s : State) (p q : BitVec 8) (h : (s.setPin p false).pin q = true) : s.pin q = true := by
  rw [pin_setPin] at h
  split at h
  · exact absurd h (by simp)
  · exact h

end Sys2Proof.Machine
end

