-- ==== Sys2Proof/Laws/Ops.lean ====
section
/-! SUPPORT. For each shared operation of Machine/Ops.lean, once, everything it can do: the iteration of R14, `rearm`, `apply` and
`set_duty`. -/

namespace Sys2Proof.Machine

theorem mem_allChans (c : ChanIx) : c ∈ allChans := by revert c; decide

theorem nodup_allChans : allChans.Nodup := by decide

/-- `chans(u)` holds exactly the channels of the unit (R14). -/
theorem mem_chansOf {s : State} {u : UnitId} {c : ChanIx} : c ∈ s.chansOf u ↔ InUnit s u c := by
  simp [State.chansOf, mem_allChans, and_assoc]

theorem nodup_chansOf (s : State) (u : UnitId) : (s.chansOf u).Nodup := nodup_allChans.filter _

/-- The channels `SETSEMI` visits (R149). -/
theorem mem_modeChans {s : State} {u : UnitId} {c : ChanIx} :
    c ∈ s.modeChans u ↔ c.val < s.params.nCh ∧ (s.chan c).mode = u := by
  simp [State.modeChans, mem_allChans]

theorem nodup_modeChans (s : State) (u : UnitId) : (s.modeChans u).Nodup := nodup_allChans.filter _

/-- `run(u)`: some channel belongs to the unit (R14). -/
theorem run_iff {s : State} {u : UnitId} : s.run u = true ↔ ∃ c, InUnit s u c := by
  rw [State.run, Bool.not_eq_true', List.isEmpty_eq_false_iff_exists_mem]
  simp only [mem_chansOf]

theorem run_eq_false_iff {s : State} {u : UnitId} : s.run u = false ↔ ¬ ∃ c, InUnit s u c := by
  rw [← run_iff]; simp

/-- `chans(u)` depends on the parameters and on which channels belong to the unit alone. -/
theorem chansOf_congr {s t : State} {u : UnitId} (hp : t.params = s.params)
    (h : ∀ c, (t.chan c).enabled = (s.chan c).enabled ∧ (t.chan c).mode = (s.chan c).mode) : t.chansOf u = s.chansOf u := by
  simp [State.chansOf, hp, h]

theorem run_congr {s t : State} {u : UnitId} (hp : t.params = s.params)
    (h : ∀ c, (t.chan c).enabled = (s.chan c).enabled ∧ (t.chan c).mode = (s.chan c).mode) : t.run u = s.run u := by
  simp [State.run, chansOf_congr hp h]

/-- The least pending delay of a list of channels: none pending, or one that is pending and at most every other. -/
theorem minPend_spec (s : State) (l : List ChanIx) :
    match minPend s l with
    | none => ∀ c ∈ l, (s.chan c).pend = none
    | some t => (∃ c ∈ l, (s.chan c).pend = some t) ∧ ∀ c ∈ l, ∀ x, (s.chan c).pend = some x → t ≤ x := by
  induction l with
  | nil => simp [minPend]
  | cons a l ih =>
    rcases ha : (s.chan a).pend with _ | t <;> rcases hm : minPend s l with _ | m <;> simp only [hm] at ih
    · simpa [minPend, ha, hm] using ih
    · simpa [minPend, ha, hm] using ih
    · simpa [minPend, ha, hm] using fun c hc x hx => by simp [ih c hc] at hx
    · obtain ⟨⟨c, hc, hcm⟩, hle⟩ := ih
      by_cases h : t ≤ m
      · simp only [minPend, ha, hm, h, if_true]
        refine ⟨⟨a, by simp, ha⟩, fun d hd x hx => ?_⟩
        rcases List.mem_cons.1 hd with rfl | hd
        · simp [ha] at hx; subst hx; exact BitVec.le_refl t
        · exact BitVec.le_trans h (hle d hd x hx)
      · simp only [minPend, ha, hm, h, if_false]
        refine ⟨⟨c, by simp [hc], hcm⟩, fun d hd x hx => ?_⟩
        rcases List.mem_cons.1 hd with rfl | hd
        · simp [ha] at hx; subst hx; exact BitVec.le_of_lt (BitVec.not_le.1 h)
        · exact hle d hd x hx

/-- `rearm()` writes `ALARM` and `ARMED` only. -/
theorem rearm_frame (s : State) : ∃ a b, rearm s = { s with upc := { s.upc with alarm := a, armed := b } } := by
  unfold rearm
  split
  · exact ⟨s.upc.alarm, false, rfl⟩
  · exact ⟨_, _, rfl⟩

section
variable (s : State)
@[simp] theorem rearm_params : (rearm s).params = s.params := by obtain ⟨a, b, h⟩ := rearm_frame s; rw [h]
@[simp] theorem rearm_lut : (rearm s).lut = s.lut := by obtain ⟨a, b, h⟩ := rearm_frame s; rw [h]
@[simp] theorem rearm_chans : (rearm s).chans = s.chans := by obtain ⟨a, b, h⟩ := rearm_frame s; rw [h]
@[simp] theorem rearm_pins : (rearm s).pins = s.pins := by obtain ⟨a, b, h⟩ := rearm_frame s; rw [h]
@[simp] theorem rearm_ucs : (rearm s).ucs = s.ucs := by obtain ⟨a, b, h⟩ := rearm_frame s; rw [h]
@[simp] theorem rearm_errFlags : (rearm s).errFlags = s.errFlags := by obtain ⟨a, b, h⟩ := rearm_frame s; rw [h]
@[simp] theorem rearm_rsp : (rearm s).rsp = s.rsp := by obtain ⟨a, b, h⟩ := rearm_frame s; rw [h]
@[simp] theorem rearm_inputs : (rearm s).inputs = s.inputs := by obtain ⟨a, b, h⟩ := rearm_frame s; rw [h]
@[simp] theorem rearm_semi : (rearm s).upc.semi = s.upc.semi := by obtain ⟨a, b, h⟩ := rearm_frame s; rw [h]
@[simp] theorem rearm_count : (rearm s).upc.count = s.upc.count := by obtain ⟨a, b, h⟩ := rearm_frame s; rw [h]
@[simp] theorem rearm_chan (c : ChanIx) : (rearm s).chan c = s.chan c := chan_congr (rearm_chans s) c
@[simp] theorem rearm_pin (p : BitVec 8) : (rearm s).pin p = s.pin p := pin_congr (rearm_params s) (rearm_pins s) p
end

theorem rearm_armed (s : State) : (rearm s).upc.armed = (minPend s (s.chansOf .pc)).isSome := by
  unfold rearm; split <;> simp_all

theorem rearm_alarm (s : State) : (rearm s).upc.alarm = (minPend s (s.chansOf .pc)).getD s.upc.alarm := by
  unfold rearm; split <;> simp_all

/-- `rearm()` arms the alarm with the least pending delay, or disarms it and leaves `ALARM` (R167). -/
theorem rearm_rearmed (s : State) : Rearmed s (rearm s) := by
  have hm := minPend_spec s (s.chansOf .pc)
  have hp : ∀ c x, Pending (rearm s) c x ↔ c ∈ s.chansOf .pc ∧ (s.chan c).pend = some x := by
    intro c x; rw [mem_chansOf]; simp [Pending, InUnit]
  refine ⟨⟨?_, ?_⟩, ?_, rearm_semi s, rearm_count s⟩
  · simp only [hp, rearm_armed]
    rcases h : minPend s (s.chansOf .pc) with _ | t <;> simp only [h] at hm
    · simpa using fun c hc x hx => by simp [hm c hc] at hx
    · obtain ⟨⟨c, hc, hx⟩, -⟩ := hm
      simpa using ⟨c, hc, t, hx⟩
  · simp only [hp, rearm_armed, rearm_alarm]
    rcases h : minPend s (s.chansOf .pc) with _ | t <;> simp only [h] at hm
    · simp
    · exact fun _ => ⟨hm.1, fun c x hcx => hm.2 c hcx.1 x hcx.2⟩
  · rw [rearm_armed, rearm_alarm]
    rcases minPend s (s.chansOf .pc) with _ | t <;> simp

/-- `apply(c)` writes nothing unless the channel is enabled with `FIRE = 0` (R113). -/
theorem applyOff_keep {s : State} {c : ChanIx} (h : ¬ ((s.chan c).enabled = true ∧ (s.chan c).fire = 0)) : applyOff c s = s := by
  simp [applyOff]; tauto

/-- `apply(c)` of an enabled channel with `FIRE = 0` (R113): the off level, nothing pending, the alarm recomputed; what it
leaves alone. -/
theorem applyOff_off {s : State} {c : ChanIx} (he : (s.chan c).enabled = true) (hf : (s.chan c).fire = 0) :
    WrittenOff s c (applyOff c s) ∧ (applyOff c s).chan c = { s.chan c with pend := none } ∧
    OtherChans s (applyOff c s) c ∧ SameSurroundings s (applyOff c s) ∧ (applyOff c s).rsp = s.rsp := by
  have hdef : applyOff c s = if (s.chan c).mode = .pc then rearm ((s.driveChan c false).setPend c none)
      else (s.driveChan c false).setPend c none := by simp [applyOff, he, hf]
  rw [hdef]
  cases hm : (s.chan c).mode
  · simp only [if_true]
    refine ⟨⟨?_, ?_, by simp, fun _ => ?_, by simp [hm]⟩, by simp, ?_, by simp [SameSurroundings], by simp⟩
    · simp [State.driveChan, pin_setPin_low]
    · intro q hq; simp [State.driveChan, pin_setPin_ne _ _ hq]
    · simpa [Rearmed] using rearm_rearmed ((s.driveChan c false).setPend c none)
    · intro k hk; simp [hk]
  · simp only [reduceCtorEq, if_false]
    refine ⟨⟨?_, ?_, by simp, by simp [hm], by simp⟩, by simp, ?_, by simp [SameSurroundings], by simp⟩
    · simp [State.driveChan, pin_setPin_low]
    · intro q hq; simp [State.driveChan, pin_setPin_ne _ _ hq]
    · intro k hk; simp [hk]

/-- A clamped operand is stored whole when its bounds fit the register (R236). -/
theorem clampDuty_toNat {v lo hi : Int} (h0 : 0 ≤ lo) (h1 : lo < 0x20000) (h2 : hi < 0x20000) :
    ((clampDuty v lo hi).toNat : Int) = max lo (min v hi) := by
  have hc : 0 ≤ max lo (min v hi) ∧ max lo (min v hi) < 0x20000 := by omega
  simp only [clampDuty, clamp, BitVec.toNat_ofInt]
  rw [Int.emod_eq_of_lt (by simpa using hc.1) (by simpa using hc.2)]
  omega

/-- A remapped duty cycle stays in the remap range (R25). -/
theorem remap_le {d lo hi : Nat} (hd : d ≤ 0x10000) (h : lo ≤ hi) : lo ≤ remap d lo hi ∧ remap d lo hi ≤ hi := by
  refine ⟨Nat.le_add_right _ _, ?_⟩
  have : (d * (hi - lo)) >>> 16 ≤ hi - lo := by
    rw [Nat.shiftRight_eq_div_pow]
    calc d * (hi - lo) / 2 ^ 16 ≤ 0x10000 * (hi - lo) / 2 ^ 16 := Nat.div_le_div_right (Nat.mul_le_mul_right _ hd)
      _ = hi - lo := by omega
  unfold remap; omega

theorem lutFire_le (t : FiringDelayTable) (m s : Nat) : lutFire t m s ≤ 0x10000 := by
  unfold lutFire fireOfDelay
  split
  · omega
  · split <;> omega

/-- `fire_of(c)` as R26 states it. -/
theorem fireOf_spec (s : State) (ch : Channel) :
    (ch.lutEn = false → fireOf s ch = ch.mapped) ∧
    (ch.lutEn = true → (fireOf s ch).toNat = lutFire s.lut ch.mapped.toNat (s.semi ch.mode).toNat) := by
  have := lutFire_le s.lut ch.mapped.toNat (s.semi ch.mode).toNat
  constructor <;> intro h <;> simp [fireOf, h]
  omega

/-- The registers `set_duty` stores (R111), with nothing but channel `c` changed. -/
theorem storeDuty_frame (c : ChanIx) (v : Int) (s : State) :
    ∃ x : Channel, storeDuty c v s = s.setChan c x ∧
      x = { s.chan c with duty := clampDuty v 0 (s.chan c).limit.toNat,
                          mapped := BitVec.ofNat 17 (remap (clampDuty v 0 (s.chan c).limit.toNat).toNat
                            (s.chan c).dutyMin.toNat (s.chan c).dutyMax.toNat),
                          fire := x.fire } ∧
      x.fire = if x.online then fireOf s x else 0 := ⟨_, rfl, rfl, rfl⟩

/-- `set_duty(c, v)` on a channel whose bounds are legal does what R111 to R113 say, and answers nothing itself. -/
theorem setDuty_dutySet {s : State} {c : ChanIx} (v : Int) (hb : BoundsLegal (s.chan c)) :
    DutySet s c v (setDuty c v s) ∧ (setDuty c v s).rsp = s.rsp := by
  obtain ⟨x, hs, hx, hf⟩ := storeDuty_frame c v s
  have hlim : (s.chan c).limit.toNat < 0x20000 := (s.chan c).limit.isLt
  have hduty : ((clampDuty v 0 (s.chan c).limit.toNat).toNat : Int) = max 0 (min v (s.chan c).limit.toNat) :=
    clampDuty_toNat (by omega) (by omega) (by omega)
  have hmap : IsMapped x := by
    have hd : (clampDuty v 0 (s.chan c).limit.toNat).toNat ≤ 0x10000 := by omega
    have := remap_le hd hb.2.1
    rw [IsMapped, hx]
    simp only [BitVec.toNat_ofNat]
    rw [Nat.mod_eq_of_lt (by omega), remap, Nat.shiftRight_eq_div_pow]
  have hfire : IsFire s x := by
    have h := fireOf_spec s x
    refine ⟨fun ho => ?_, fun ho hl => ?_, fun ho hl => ?_⟩ <;> rw [hf, ho]
    · rfl
    · exact h.1 hl
    · exact h.2 hl
  have hcfg : x.limit = (s.chan c).limit ∧ x.dutyMin = (s.chan c).dutyMin ∧ x.dutyMax = (s.chan c).dutyMax ∧
      x.enabled = (s.chan c).enabled ∧ x.online = (s.chan c).online ∧ x.lutEn = (s.chan c).lutEn ∧
      x.mode = (s.chan c).mode ∧ x.pinsel = (s.chan c).pinsel := by rw [hx]; simp
  have hmod : x.debt = (s.chan c).debt ∧ x.bal = (s.chan c).bal := by rw [hx]; simp
  have hpend : x.pend = (s.chan c).pend := by rw [hx]
  have hxd : (x.duty.toNat : Int) = max 0 (min v (s.chan c).limit.toNat) := by rw [hx]; exact hduty
  have hdef : setDuty c v s = if x.online then applyOff c (s.setChan c x) else s.setChan c x := by
    simp [setDuty, hs]
  by_cases ho : x.online = true ∧ x.enabled = true ∧ x.fire = 0
  · obtain ⟨ho, he, hz⟩ := ho
    obtain ⟨hw, hc, hk, hsame, hr⟩ := applyOff_off (s := s.setChan c x) (c := c) (by simpa using he) (by simpa using hz)
    rw [chan_setChan_same] at hc
    simp only [hdef, ho, if_true]
    have hsemi : ∀ u, (applyOff c (s.setChan c x)).semi u = s.semi u := by
      intro u
      cases u
      · cases hm : x.mode
        · have := (hw.alarm_pc (by simpa using hm)).2.2.1; simpa using this
        · have := hw.alarm_cs (by simpa using hm); simp [this]
      · have := hsame.2.2.2.1; simp [this]
    refine ⟨⟨?_, ?_, ?_, ?_, ?_, fun _ _ _ => ?_, fun h => ?_, ?_, ?_⟩, by simpa using hr⟩
    · rw [hc]; exact hxd
    · rw [hc]; exact hmap
    · rw [hc]
      refine ⟨hfire.1, hfire.2.1, fun h1 h2 => ?_⟩
      have := hfire.2.2 h1 h2
      simpa [hsemi, hsame.2.1] using this
    · rw [hc]; exact hcfg
    · rw [hc]; exact hmod
    · refine ⟨?_, ?_, ?_, fun hm => ?_, fun hm => ?_⟩
      · have := hw.pin_low; simpa [hcfg] using this
      · have := hw.other_pins; simpa [hcfg, OtherPins] using this
      · exact hw.pend
      · have := hw.alarm_pc (by simpa [hcfg] using hm); simpa [Rearmed] using this
      · have := hw.alarm_cs (by simpa [hcfg] using hm); simpa using this
    · exact absurd ⟨by rw [← hcfg.2.2.2.2.1]; exact ho, by rw [← hcfg.2.2.2.1]; exact he, by rw [hc]; exact hz⟩ h
    · intro k hkc; rw [hk k hkc, chan_setChan_ne _ _ hkc]
    · simpa [SameSurroundings] using hsame
  · have hdef' : setDuty c v s = s.setChan c x := by
      rw [hdef]
      split
      · next h => exact applyOff_keep (by simpa using fun he hz => ho ⟨h, he, hz⟩)
      · rfl
    rw [hdef']
    refine ⟨⟨by simpa using hxd, by simpa using hmap, ?_, by simpa using hcfg, by simpa using hmod, ?_, ?_, ?_, by simp [SameSurroundings]⟩, rfl⟩
    · simpa [IsFire] using hfire
    · intro h1 h2 h3
      exact absurd ⟨by rw [hcfg.2.2.2.2.1]; exact h1, by rw [hcfg.2.2.2.1]; exact h2, by simpa using h3⟩ ho
    · intro _; simp [hpend]
    · intro k hk; simp [hk]

/-- A property every body keeps is kept by the loop. -/
theorem forChans_keeps {P : State → Prop} {body : ChanIx → State → State} (l : List ChanIx) {s : State}
    (h : ∀ c ∈ l, ∀ t, P t → P (body c t)) (hs : P s) : P (forChans l body s) := by
  induction l generalizing s with
  | nil => exact hs
  | cons a l ih => exact ih (fun c hc => h c (by simp [hc])) (h a (by simp) s hs)

/-- A loop whose body on `c` rewrites channel `c` alone, as a function of that channel, does so once for every channel it
visits. -/
theorem forChans_chan {P : State → Prop} {body : ChanIx → State → State} {g : ChanIx → Channel → Channel} {l : List ChanIx}
    {s : State} (hl : l.Nodup) (keep : ∀ c ∈ l, ∀ t, P t → P (body c t))
    (other : ∀ c ∈ l, ∀ t, P t → OtherChans t (body c t) c) (hit : ∀ c ∈ l, ∀ t, P t → (body c t).chan c = g c (t.chan c))
    (hs : P s) (k : ChanIx) : (forChans l body s).chan k = if k ∈ l then g k (s.chan k) else s.chan k := by
  induction l generalizing s with
  | nil => simp [forChans]
  | cons a l ih =>
    obtain ⟨ha, hl⟩ := List.nodup_cons.1 hl
    have := ih hl (fun c hc => keep c (by simp [hc])) (fun c hc => other c (by simp [hc])) (fun c hc => hit c (by simp [hc]))
      (keep a (by simp) s hs)
    rw [show forChans (a :: l) body s = forChans l body (body a s) from rfl, this]
    by_cases hk : k = a
    · subst hk; simp [ha, hit k (by simp) s hs]
    · simp [hk, other a (by simp) s hs k hk]

end Sys2Proof.Machine
end

