-- ==== Sys2Proof/Laws/PerInstr.lean ====
section
/-! SUPPORT. The per-instruction family `TableRow`: the encoding of a command has the opcode of its row of spec/opcode_table.json and
zeros in the reserved bits of that row's mask (R94). -/

namespace Sys2Proof.Laws

/-- The `mask` of a command's row (R94). -/
def tableMask : Instr → Word
  | .nop => 0xFFFFFFFF
  | .beginChan _ _ _ => 0xF0FFFE00
  | .endChan _ => 0xF0FFFFFF
  | .setDuty _ _ => 0xF0000000
  | .setLimit _ _ => 0xF0000000
  | .setMin _ _ => 0xF0000000
  | .setMax _ _ => 0xF0000000
  | .setOnline _ _ => 0xF0FFFFFE
  | .setLut _ _ => 0xF0FFFFFE
  | .setSemi _ _ => 0xFEFF0000
  | .get _ _ => 0xF0FFFF00
  | .getU _ _ => 0xFEFFFF00
  | .getLut _ => 0xFFFFFF80
  | .clrErr _ => 0xFFFFFF00

/-- The `match` of a command's row (R94). -/
def tablePattern : Instr → Word
  | .nop => 0x00000000
  | .beginChan _ _ _ => 0x10000000
  | .endChan _ => 0x20000000
  | .setDuty _ _ => 0x30000000
  | .setLimit _ _ => 0x40000000
  | .setMin _ _ => 0x50000000
  | .setMax _ _ => 0x60000000
  | .setOnline _ _ => 0x70000000
  | .setLut _ _ => 0x80000000
  | .setSemi _ _ => 0x90000000
  | .get _ _ => 0xA0000000
  | .getU _ _ => 0xB0000000
  | .getLut _ => 0xC0000000
  | .clrErr _ => 0xD0000000

/-- The encoding matches its row of the opcode table. -/
def TableRow.Statement (i : Instr) : Prop := encode i &&& tableMask i = tablePattern i

/-- Masking a laid-out word masks its fields. -/
theorem layout_and (op ch mop mch : BitVec 4) (imm mimm : BitVec 24) :
    layout op ch imm &&& layout mop mch mimm = layout (op &&& mop) (ch &&& mch) (imm &&& mimm) := by
  apply BitVec.eq_of_getLsbD_eq
  intro i hi
  simp only [layout, BitVec.getLsbD_append, BitVec.getLsbD_and]
  split
  · rfl
  · split <;> rfl

/-- A zero-extended operand of `n` bits is zero under a mask that is zero in its low `n` bits. -/
theorem setWidth_and_eq_zero {n : Nat} (v : BitVec n) (mask : BitVec 24) (h : ∀ i < n, mask.getLsbD i = false) :
    v.setWidth 24 &&& mask = 0 := by
  apply BitVec.eq_of_getLsbD_eq
  intro i hi
  by_cases hn : i < n
  · simp [h i hn]
  · simp [BitVec.getLsbD_of_ge v i (by omega)]

theorem TableRow.nop : TableRow.Statement .nop := by unfold TableRow.Statement; decide

theorem TableRow.beginChan (c : ChanIx) (m : UnitId) (p : BitVec 8) : TableRow.Statement (.beginChan c m p) := by
  rw [TableRow.Statement, encode, show tableMask _ = layout 0xF 0 0xFFFE00 from rfl, layout_and,
    setWidth_and_eq_zero _ _ (by decide)]
  simp; rfl

theorem TableRow.endChan (c : ChanIx) : TableRow.Statement (.endChan c) := by unfold TableRow.Statement; revert c; decide

theorem TableRow.setDuty (c : ChanIx) (v : BitVec 24) : TableRow.Statement (.setDuty c v) := by
  rw [TableRow.Statement, encode, show tableMask _ = layout 0xF 0 0 from rfl, layout_and]; simp; rfl

theorem TableRow.setLimit (c : ChanIx) (v : BitVec 24) : TableRow.Statement (.setLimit c v) := by
  rw [TableRow.Statement, encode, show tableMask _ = layout 0xF 0 0 from rfl, layout_and]; simp; rfl

theorem TableRow.setMin (c : ChanIx) (v : BitVec 24) : TableRow.Statement (.setMin c v) := by
  rw [TableRow.Statement, encode, show tableMask _ = layout 0xF 0 0 from rfl, layout_and]; simp; rfl

theorem TableRow.setMax (c : ChanIx) (v : BitVec 24) : TableRow.Statement (.setMax c v) := by
  rw [TableRow.Statement, encode, show tableMask _ = layout 0xF 0 0 from rfl, layout_and]; simp; rfl

theorem TableRow.setOnline (c : ChanIx) (b : Bool) : TableRow.Statement (.setOnline c b) := by unfold TableRow.Statement; revert c b; decide

theorem TableRow.setLut (c : ChanIx) (b : Bool) : TableRow.Statement (.setLut c b) := by unfold TableRow.Statement; revert c b; decide

theorem TableRow.setSemi (u : UnitId) (p : Ticks) : TableRow.Statement (.setSemi u p) := by
  rw [TableRow.Statement, encode, show tableMask _ = layout 0xF 0xE 0xFF0000 from rfl, layout_and,
    setWidth_and_eq_zero _ _ (by decide)]
  cases u <;> rfl

theorem TableRow.get (c : ChanIx) (k : ChanSel) : TableRow.Statement (.get c k) := by
  unfold TableRow.Statement; cases k <;> revert c <;> decide

theorem TableRow.getU (u : UnitId) (k : UnitSel) : TableRow.Statement (.getU u k) := by
  unfold TableRow.Statement; cases u <;> cases k <;> decide

theorem TableRow.getLut (i : Fin 80) : TableRow.Statement (.getLut i) := by unfold TableRow.Statement; revert i; decide

theorem TableRow.clrErr (m : BitVec 8) : TableRow.Statement (.clrErr m) := by
  rw [TableRow.Statement, encode, show tableMask _ = layout 0xF 0xF 0xFFFF00 from rfl, layout_and,
    setWidth_and_eq_zero _ _ (by decide)]
  rfl

end Sys2Proof.Laws
end

