-- ==== Sys2Proof/Machine/Program.lean ====
section
/-! DEFINITION. The program text of R91 to R93: its lines, the pseudo-instructions, the Q7.16 operand, and the steps a line
presents. -/

namespace Sys2Proof.Machine

/-- `q(x)` for `x = num / den` (R91): `floor(x * 65536) mod 2^24`. -/
def operandQ (num : Int) (den : Nat) : BitVec 24 := BitVec.ofInt 24 (num * 65536 / den)

/-- One line of a program text (R91 to R93). -/
inductive Line where
  /-- A command (R91). -/
  | cmd (i : Instr)
  /-- `ON c` (R92). -/
  | on (c : ChanIx)
  /-- `OFF c` (R92). -/
  | off (c : ChanIx)
  /-- `FULL c` (R92). -/
  | full (c : ChanIx)
  /-- `ZERO c` (R92). -/
  | zero (c : ChanIx)
  /-- `TICK n` (R93): `n` clocks with no zero-cross and no command. -/
  | tick (n : Nat)
  /-- `ZC.PC d` (R93). -/
  | zcPC (d : BitVec 16)
  /-- `ZC.CS d` (R93). -/
  | zcCS (d : BitVec 16)
deriving DecidableEq, Repr

/-- The command a line stands for, a pseudo-instruction being expanded (R92); `none` for a stimulus. -/
def Line.command : Line → Option Instr
  | .cmd i => some i
  | .on c => some (.setOnline c true)
  | .off c => some (.setOnline c false)
  | .full c => some (.setDuty c 0x010000)
  | .zero c => some (.setDuty c 0x000000)
  | .tick _ => none
  | .zcPC _ => none
  | .zcCS _ => none

/-- The steps a line presents, in order (R93). -/
def Line.steps : Line → List Input
  | .tick n => List.replicate n .tick
  | .zcPC d => [.zcPC d]
  | .zcCS d => [.zcCS d]
  | l => (l.command.map fun i => Input.cmd (encode i)).toList

/-- Present a program text after everything already listed. -/
def presentProgram (p : List Line) (s : State) : State := { s with inputs := s.inputs ++ p.flatMap Line.steps }

/-- The 17-bit number of a zero-cross port value in trace files (R93): `u << 16 | (d mod 2^16)`. -/
def zcCode (u : UnitId) (d : BitVec 16) : BitVec 17 := BitVec.ofBool u.code ++ d

/-- The step of a zero-cross port value (R84, R93). -/
def zcOfCode (v : BitVec 17) : Input :=
  match UnitId.ofCode (v.getLsbD 16) with
  | .pc => .zcPC (v.setWidth 16)
  | .cs => .zcCS (v.setWidth 16)

end Sys2Proof.Machine
end

