-- ==== Sys2Proof/Tests/Slice0.lean ====
section
/-! SUPPORT. Tests: words written out from the encoding tables, one-step checks against the spec's worked examples and vectors
(95_test_vectors.md, named TV), and for every statement with hypotheses a state and operands that meet them all. -/

namespace Sys2Proof.Machine.Tests

/-! ### The instance of TV section 1 -/

/-- `LUT_TEST` of TV section 1. -/
def table : FiringDelayTable := { entries := Vector.ofFn fun i => BitVec.ofNat 16 (0xFFFF - 829 * i.val), legal := by decide }

/-- The parameters of TV section 1. -/
def params : Params :=
  { nCh := 8, nPins := 32, tMinDelay := 100, tLateMax := 50, nCh_range := by decide, nPins_range := by decide }

/-- Right after reset of that instance. -/
def fresh : State := State.resetOf params table

/-- An enabled, online channel of unit `u` on pin `p` with this duty cycle in linear mode. -/
def running (u : UnitId) (p : BitVec 8) (d : Duty) : Channel :=
  { Channel.reset with enabled := true, online := true, mode := u, pinsel := p, duty := d, mapped := d, fire := d }

/-- Unit PC with `SEMI = 10000` and this channel 0. -/
def pcState (ch : Channel) (count : Int) : State :=
  { fresh.setChan 0 ch with upc := { semi := 10000, count := BitVec.ofInt 32 count, alarm := 0, armed := false } }

/-- Unit CS with this period, counter and polarity, and this channel 0. -/
def csState (ch : Channel) (semi : Ticks) (count : Int) (pol : Bool) : State :=
  { fresh.setChan 0 ch with ucs := { semi := semi, count := BitVec.ofInt 32 count, pol := pol } }

/-- Channel 1 at half duty on pin 5 waits for 5000, the counter is at `count` (TV program P1). -/
def waiting (count : Int) : State :=
  { fresh.setChan 1 { running .pc 5 0x8000 with pend := some 5000 } with
    upc := { semi := 10000, count := BitVec.ofInt 32 count, alarm := 5000, armed := true } }

/-- What an answer's next state shows. -/
def look {α : Type} (r : Result) (f : State → α) : Option α :=
  match r with
  | .next t => some (f t)
  | .fault _ => none
  | .refused _ => none

/-- The response as `(err, data)`. -/
def answer (t : State) : Bool × Nat := (t.rsp.err, t.rsp.data.toNat)

/-- The step the environment presents, taken in `s`. -/
def take (i : Input) (s : State) : Result := step { s with inputs := [i] }

/-! ### Well-formedness -/

theorem test_wf_begin_refused : (Instr.beginChan 8 .pc 0).wf 8 = false := by decide
theorem test_wf_end_refused : (Instr.endChan 15).wf 8 = false := by decide
theorem test_wf_setDuty_refused : (Instr.setDuty 8 0).wf 8 = false := by decide
theorem test_wf_setOnline_refused : (Instr.setOnline 1 true).wf 1 = false := by decide
theorem test_wf_setLut_refused : (Instr.setLut 9 true).wf 8 = false := by decide
theorem test_wf_get_refused : (Instr.get 8 .duty).wf 8 = false := by decide
theorem test_wf_last_channel : (Instr.endChan 7).wf 8 = true := by decide

/-! ### Words written out bit by bit from R81, R82 and R85 -/

theorem test_word_nop : decode 8 0b00000000000000000000000000000000 = .ok .nop := by rfl
theorem test_word_begin : decode 8 0b00010010000000000000000100000101 = .ok (.beginChan 2 .cs 5) := by rfl
theorem test_word_end : decode 8 0b00100001000000000000000000000000 = .ok (.endChan 1) := by rfl
theorem test_word_setDuty : decode 8 0b00110000111111110000000000000000 = .ok (.setDuty 0 0xFF0000) := by rfl
theorem test_word_setLimit : decode 8 0b01000000000000001000000000000000 = .ok (.setLimit 0 0x8000) := by rfl
theorem test_word_setMin : decode 8 0b01010000000000000100000000000000 = .ok (.setMin 0 0x4000) := by rfl
theorem test_word_setMax : decode 8 0b01100000000000001100000000000000 = .ok (.setMax 0 0xC000) := by rfl
theorem test_word_setOnline : decode 8 0b01110010000000000000000000000001 = .ok (.setOnline 2 true) := by rfl
theorem test_word_setLut : decode 8 0b10000000000000000000000000000001 = .ok (.setLut 0 true) := by rfl
theorem test_word_setSemi : decode 8 0b10010001000000000000000001100100 = .ok (.setSemi .cs 100) := by rfl
theorem test_word_get : decode 8 0b10100000000000000000000000001001 = .ok (.get 0 .bal) := by rfl
theorem test_word_getU : decode 8 0b10110001000000000000000000000011 = .ok (.getU .cs .ustat) := by rfl
theorem test_word_getLut : decode 8 0b11000000000000000000000001001111 = .ok (.getLut 79) := by rfl
theorem test_word_clrErr : decode 8 0b11010000000000000000000000000101 = .ok (.clrErr 5) := by rfl

/-- The illegal words of TV section 3.1, each with the test that refuses it. -/
theorem test_word_illegal :
    [0x00000001, 0x01000000, 0x10000205, 0x18000005, 0x20000001, 0x28000000, 0x70000002, 0x80000003, 0x92000064, 0x91010000,
      0xA000000A, 0xA0000100, 0xB2000000, 0xB1000006, 0xC0000050, 0xC1000000, 0xD1000001, 0xD0000100, 0xE0000000, 0xF1234567,
      0xFFFFFFFF].map (fun w => illegalTest 8 w) =
    [.reservedBit, .channelNotZero, .reservedBit, .channel, .reservedBit, .channel, .reservedBit, .reservedBit, .unit, .reservedBit,
      .selector, .reservedBit, .unit, .selector, .selector, .channelNotZero, .channelNotZero, .reservedBit, .opcode, .opcode,
      .opcode].map some := by decide

/-- The decoder refuses the same words for the same tests. -/
theorem test_decode_illegal :
    decode 8 0x00000001 = .error .reservedBit ∧ decode 8 0x01000000 = .error .channelNotZero ∧
    decode 8 0x28000000 = .error .channel ∧ decode 8 0x92000064 = .error .unit ∧
    decode 8 0xC0000050 = .error .selector ∧ decode 8 0xF1234567 = .error .opcode := by
  refine ⟨?_, ?_, ?_, ?_, ?_, ?_⟩ <;> rfl

/-! ### The numbers of TV sections 3.2 and 3.3 -/

theorem test_remap : remap 0x5555 0x1000 0xF000 = 0x5AAA ∧ remap 0xAAAA 0x3333 0x3334 = 0x3333 := by decide
theorem test_lutFire_mid : lutFire table 0x4000 10000 = 0x3FF2 := by decide
theorem test_lutFire_low : lutFire table 0x0001 10000 = 0 ∧ lutFire table 0xFFFF 65535 = 0xFFD2 := by decide
theorem test_delayOf : delayOf 0x4000 8333 = 6249 ∧ delayOf 0xFFFF 10000 = 0 := by decide

/-! ### One step each, against the spec's examples -/

/-- R230. -/
theorem test_nop : look (exec .nop fresh) answer = some (false, 0) := by decide

/-- TV P4 step 2: a pin at or above `N_PINS`. -/
theorem test_begin_bad_pin : look (exec (.beginChan 0 .pc 40) fresh) (fun t => (answer t, t.errFlags.toNat, (t.chan 0).enabled)) =
    some ((true, 0), 2, false) := by decide

/-- R161's example: `BEGIN 1, PC, 5` after reset. -/
theorem test_begin : look (exec (.beginChan 1 .pc 5) fresh)
    (fun t => (answer t, (t.chan 1).enabled, (t.chan 1).pinsel.toNat, t.run .pc, t.run .cs)) =
    some ((false, 1), true, 5, true, false) := by decide

/-- R163's example: the only PC channel, waiting, is ended. -/
theorem test_end : look (exec (.endChan 1) (waiting 3000))
    (fun t => (answer t, t.pin 5, (t.chan 1).pend, (t.chan 1).enabled, t.upc.count.toInt, t.upc.armed)) =
    some ((false, 1), false, none, false, 0, false) := by decide

/-- TV 3.2 row 6: 1.5 under a limit of one half, on a channel that is online but not enabled. -/
theorem test_setDuty_clamps : look (exec (.setDuty 0 0x018000) (fresh.setChan 0 { Channel.reset with limit := 0x8000, online := true }))
    (fun t => (answer t, (t.chan 0).duty.toNat, (t.chan 0).fire.toNat)) = some ((false, 0), 0x8000, 0x8000) := by decide

/-- TV 3.4 Z5: a zero duty cancels the waiting channel at once, `ALARM` keeps its value. -/
theorem test_setDuty_zero : look (exec (.setDuty 1 0) (waiting 10))
    (fun t => (answer t, (t.chan 1).pend, t.upc.armed, t.upc.alarm.toNat, t.upc.count.toInt)) =
    some ((false, 1), none, false, 5000, 10) := by decide

/-- R114's example. -/
theorem test_setLimit : look (exec (.setLimit 0 0x8000) (fresh.setChan 0 (running .pc 1 0xC000)))
    (fun t => ((t.chan 0).limit.toNat, (t.chan 0).duty.toNat)) = some (0x8000, 0x8000) := by decide

/-- R115's example. -/
theorem test_setMin : look (exec (.setMin 0 0x1999) (fresh.setChan 0 { running .pc 1 0x8000 with dutyMax := 0xE666 }))
    (fun t => ((t.chan 0).dutyMin.toNat, (t.chan 0).mapped.toNat)) = some (0x1999, 0x7FFF) := by decide

/-- R116's example: clamped against `MIN`. -/
theorem test_setMax : look (exec (.setMax 0 0x2000) (fresh.setChan 0 { running .pc 1 0x8000 with dutyMin := 0x4000 }))
    (fun t => (t.chan 0).dutyMax.toNat) = some 0x4000 := by decide

/-- R117's example: a conducting channel goes offline. -/
theorem test_setOnline_off : look (exec (.setOnline 0 false) ((pcState (running .pc 1 0x10000) 7).setPin 1 true))
    (fun t => ((t.chan 0).online, (t.chan 0).fire.toNat, t.pin 1, (t.chan 0).duty.toNat)) = some (false, 0, false, 0x10000) := by decide

/-- R117's example, going on: the pin stays low until the next zero-cross. -/
theorem test_setOnline_on : look (exec (.setOnline 0 true) (pcState { running .pc 1 0x10000 with online := false, fire := 0 } 7))
    (fun t => ((t.chan 0).fire.toNat, t.pin 1)) = some (0x10000, false) := by decide

/-- TV P4 step 27. -/
theorem test_setLut : look (exec (.setLut 0 true) (pcState (running .pc 1 0xC000) 0)) (fun t => (answer t, (t.chan 0).fire.toNat)) =
    some ((false, 1), 0xBFDF) := by decide

/-- TV P4 step 1. -/
theorem test_setLut_refused : look (exec (.setLut 0 true) fresh) (fun t => (answer t, t.errFlags.toNat, (t.chan 0).lutEn)) =
    some ((true, 0), 4, false) := by decide

/-- TV 3.3, row `M = 0x8000`, `S = 8333`, reached by a new semi-period. -/
theorem test_setSemi : look (exec (.setSemi .pc 8333) (pcState { running .pc 1 0x8000 with lutEn := true } 0))
    (fun t => (answer t, t.upc.semi.toNat, (t.chan 0).fire.toNat)) = some ((false, 1), 8333, 0x7FEC) := by decide +kernel

/-- TV P4 step 28. -/
theorem test_setSemi_refused : look (exec (.setSemi .pc 0) (pcState { running .pc 1 0xC000 with lutEn := true } 0))
    (fun t => (answer t, t.errFlags.toNat, t.upc.semi.toNat)) = some ((true, 0), 4, 10000) := by decide

/-- TV P1 step 11: the `CTRL` word of the waiting channel. -/
theorem test_get_ctrl : look (exec (.get 1 .ctrl) (waiting 0)) answer = some (false, 0x00050113) := by decide

/-- TV P3 step 18: `BAL = -1`. -/
theorem test_get_bal : look (exec (.get 0 .bal) (fresh.setChan 0 { running .cs 7 0 with bal := 3 })) answer =
    some (false, 0xFFFFFFFF) := by decide

/-- TV 3.6: `COUNT = -200`. -/
theorem test_getU_count : look (exec (.getU .pc .count) (pcState (running .pc 1 0x8000) (-200))) answer =
    some (false, 0xFFFFFF38) := by decide

/-- TV 3.5: the idle CSU, `RUN = 1`, `ARMED = 0`, `POL = 1`. -/
theorem test_getU_ustat : look (exec (.getU .cs .ustat) (csState (running .cs 7 0x10000) 0 0 true)) answer = some (false, 5) := by decide

/-- TV 3.1: `LUT_TEST[79]`. -/
theorem test_getLut : look (exec (.getLut 79) fresh) answer = some (false, 0x2C) := by decide

/-- TV P4 steps 21 and 22. -/
theorem test_clrErr : look (exec (.clrErr 5) { fresh with errFlags := 7 }) (fun t => (answer t, t.errFlags.toNat)) =
    some ((false, 1), 2) := by decide

/-- TV 3.4 Z13: late by exactly `T_LATE_MAX`, fired in-line. -/
theorem test_zcPC_late : look (take (.zcPC 150) (pcState (running .pc 1 0xFFFF) 9999))
    (fun t => (t.pin 1, (t.chan 0).pend, t.upc.count.toInt, t.upc.armed, t.errFlags.toNat)) =
    some (true, none, 150, false, 0) := by decide

/-- TV 3.4 Z14: one tick later, dropped. -/
theorem test_zcPC_dropped : look (take (.zcPC 151) (pcState (running .pc 1 0xFFFF) 9999))
    (fun t => (t.pin 1, (t.chan 0).pend, t.upc.count.toInt, t.upc.armed, t.errFlags.toNat)) =
    some (false, none, 151, false, 8) := by decide

/-- TV P1 step 13: the alarm fires in the tick in which `COUNT` reaches it. -/
theorem test_tick_fires : look (take .tick (waiting 4999)) (fun t => (t.pin 5, (t.chan 1).pend, t.upc.count.toInt, t.upc.armed)) =
    some (true, none, 5000, false) := by decide

/-- R215, target 0.5, boundary 4: a polarity hold-off. -/
theorem test_tick_boundary : look (take .tick (csState { running .cs 7 0x8000 with debt := 0x8000, bal := 3 } 100 99 true))
    (fun t => (t.pin 7, (t.chan 0).debt.toNat, (t.chan 0).bal.toInt, t.ucs.pol, t.ucs.count.toInt)) =
    some (false, 0x10000, -1, false, 0) := by decide

/-- TV 3.5, first row: a zero-cross near the boundary ahead takes it. -/
theorem test_zcCS_takes : look (take (.zcCS 0) (csState (running .cs 7 0x10000) 10000 9990 false))
    (fun t => (t.pin 7, t.ucs.count.toInt, t.ucs.pol)) = some (true, 0, true) := by decide

/-- R210's sentence, also with `SEMI = 1` (log 14): right after a boundary a zero-cross only re-phases. -/
theorem test_zcCS_semi_one : look (take (.zcCS 0) (csState (running .cs 7 0x10000) 1 0 true)) (fun t => (t.ucs.pol, t.ucs.count.toInt)) =
    some (true, 0) := by decide

/-- TV 3.5, third row: the zero-cross is announced early. -/
theorem test_zcCS_early : look (take (.zcCS (-10)) (csState (running .cs 7 0x10000) 10000 9995 false))
    (fun t => (t.pin 7, t.ucs.count.toInt, t.ucs.pol)) = some (false, 9990, false) := by decide

/-- R88, R250: a reserved opcode as a command step. -/
theorem test_illegal_step : look (take (.cmd 0xE0000000) fresh) (fun t => (answer t, t.errFlags.toNat)) = some ((true, 0), 1) := by decide

/-- R280, R46: a clock of reset. -/
theorem test_rst : look (take .rst (waiting 4999)) (fun t => ((t.chan 1).enabled, t.upc.semi.toNat, t.upc.armed, t.params.tLateMax.toNat)) =
    some (false, 0, false, 50) := by decide

/-- R258: the steps of a clock in which everything is presented. -/
theorem test_clock_steps : Clock.steps { rst := false, zcPC := some 1, zcCS := some 2, cmd := some 3 } =
    [.tick, .zcPC 1, .zcCS 2, .cmd 3] := by decide

/-- R93's examples, TV 3.1: `ZC.PC -150` and `ZC.CS -5`. -/
theorem test_zcCode : zcCode .pc (-150) = 0x0FF6A ∧ zcCode .cs (-5) = 0x1FFFB ∧ zcOfCode 0x0FF6A = .zcPC (-150) ∧
    zcOfCode 0x10000 = .zcCS 0 := by decide

/-- R91's `SETDUTY 1, #q(0.5)` and the pseudo-instructions `ON 0`, `FULL 1` of TV 3.4. -/
theorem test_lines : encode (.setDuty 1 (operandQ 1 2)) = 0x31008000 ∧ (Line.on 0).steps = [.cmd 0x70000001] ∧
    (Line.full 1).steps = [.cmd 0x31010000] ∧ operandQ (-1) 65536 = 0xFFFFFF := by decide

/-- The word placed by `withFetchWord` is the next step's command, on the state right after reset. -/
theorem test_withFetchWord : look (step (State.reset.withFetchWord 32 0x10000001)) (fun t => (answer t, (t.chan 0).enabled)) =
    some ((false, 1), true) := by decide

/-! ### Witnesses: states and operands that meet the hypotheses of the statements -/

theorem fresh_disabled (c : ChanIx) : (fresh.chan c).enabled = false := by revert c; decide

theorem pinsSeparate_single {s : State} (k : ChanIx) (only : ∀ c, (s.chan c).enabled = true → c = k)
    (inRange : (s.chan k).pinsel.toNat < s.params.nPins) : PinsSeparate s :=
  ⟨fun c _ h => only c h ▸ inRange, fun c d _ _ hc hd _ => (only c hc).trans (only d hd).symm⟩

theorem witness_DecodeOfEncode : (Instr.beginChan 7 .cs 255).wf 8 = true ∧ (Instr.endChan 0).wf 1 = true ∧ (Instr.getLut 79).wf 8 = true := by
  decide

theorem witness_EncodeOfDecode : decode 16 0x1F0001FF = .ok (.beginChan 15 .cs 255) := by rfl

theorem witness_IllegalWordsRefused :
    ({ fresh with inputs := [.cmd 0x10000205] } : State).inputs = [.cmd 0x10000205] ∧ illegalTest fresh.params.nCh 0x10000205 ≠ none ∧
    illegalTest fresh.params.nCh 0x10000105 = none := by decide

theorem witness_StepRunsDecodedCommand :
    ({ waiting 10 with inputs := [.cmd 0x21000000, .tick] } : State).inputs = .cmd 0x21000000 :: [.tick] ∧
    decode (waiting 10).params.nCh 0x21000000 = .ok (.endChan 1) := ⟨by decide, by rfl⟩

theorem witness_MissingChannelIsIllegal : (Instr.get 8 .ctrl).channel = some 8 ∧ fresh.params.nCh ≤ (8 : ChanIx).val := by decide

theorem witness_RemapExactMonotone : 0x4000 ≤ 0xC000 ∧ 0xC000 ≤ 0x10000 ∧ 0x5555 ≤ 0x10000 ∧ 0x10000 ≤ 0x10000 := by decide

theorem witness_DelayOfRange : 1 ≤ 0x10000 ∧ 1 ≤ 0xFFFF ∧ 0 < 1 ∧ 0xFFFF ≤ 0xFFFF := by decide

theorem witness_InterpolationBracketed : (0 < 1 ∧ 1 < 0x10000) ∧ (0 < 0xFFFF ∧ 0xFFFF < 0x10000) ∧
    lutValue table 0x33E = (lutEntry table 1) ∧ lutValue table 0x8000 ≠ lutEntry table 39 := by decide

theorem witness_DelayRoundTrip : (1 ≤ 1 ∧ 1 ≤ 0xFFFF ∧ 1 ≤ 1) ∧ (1 ≤ 0xFFFF ∧ 0xFFFF ≤ 0xFFFF ∧ 0 ≤ 0xFFFF) := by decide

theorem witness_LutFireRecoversDelay : 1 ≤ 10000 ∧ 10000 ≤ 0xFFFF ∧ 0 < 0xFFFF ∧ 0xFFFF < 0x10000 ∧ 0x10000 ≤ 0x10000 := by decide

/-- Linear mode with no semi-period known, at two operands. -/
theorem witness_FireMonotoneInDuty_linear : ∃ t u, (0 : ChanIx).val < (fresh.setChan 0 (running .pc 1 0)).params.nCh ∧
    BoundsLegal ((fresh.setChan 0 (running .pc 1 0)).chan 0) ∧
    (((fresh.setChan 0 (running .pc 1 0)).chan 0).lutEn = true → (fresh.setChan 0 (running .pc 1 0)).semi .pc ≠ 0) ∧
    (fresh.setChan 0 (running .pc 1 0)).semi .pc = 0 ∧ (0 : BitVec 24).toInt ≤ (1 : BitVec 24).toInt ∧
    exec (.setDuty 0 0) (fresh.setChan 0 (running .pc 1 0)) = .next t ∧
    exec (.setDuty 0 1) (fresh.setChan 0 (running .pc 1 0)) = .next u :=
  ⟨_, _, by decide, by decide, by decide, by decide, by decide, rfl, rfl⟩

/-- A PC channel in LUT mode with a known semi-period, at two operands. -/
theorem witness_FireMonotoneInDuty : ∃ t u, (0 : ChanIx).val < (pcState { running .pc 1 0 with lutEn := true } 0).params.nCh ∧
    BoundsLegal ((pcState { running .pc 1 0 with lutEn := true } 0).chan 0) ∧
    (pcState { running .pc 1 0 with lutEn := true } 0).semi .pc ≠ 0 ∧ (0xFFFFFF : BitVec 24).toInt ≤ (0x8000 : BitVec 24).toInt ∧
    exec (.setDuty 0 0xFFFFFF) (pcState { running .pc 1 0 with lutEn := true } 0) = .next t ∧
    exec (.setDuty 0 0x8000) (pcState { running .pc 1 0 with lutEn := true } 0) = .next u :=
  ⟨_, _, by decide, by decide, by decide, by decide, rfl, rfl⟩

/-- `SETDUTY`: an existing channel with legal bounds whose new `FIRE` is 0, and one whose new `FIRE` is the least above 0. -/
theorem witness_SetDutyEffect : (1 : ChanIx).val < (waiting 10).params.nCh ∧ BoundsLegal ((waiting 10).chan 1) ∧
    ((waiting 10).chan 1).online = true ∧ ((waiting 10).chan 1).enabled = true ∧
    look (exec (.setDuty 1 0) (waiting 10)) (fun t => (t.chan 1).fire.toNat) = some 0 ∧
    look (exec (.setDuty 1 1) (waiting 10)) (fun t => (t.chan 1).fire.toNat) = some 1 := by decide

/-- The same for the configuration commands: bounds at their limits, `LIMIT` set to 0 and to 1.0. -/
theorem witness_SetLimitEffect : (7 : ChanIx).val < fresh.params.nCh ∧ BoundsLegal (fresh.chan 7) ∧
    BoundsLegal ({ Channel.reset with limit := 0, dutyMin := 0x10000 } : Channel) := by decide

theorem witness_SetMinEffect : (1 : ChanIx).val < (waiting 10).params.nCh ∧ BoundsLegal ((waiting 10).chan 1) ∧
    look (exec (.setMin 1 0x20000) (waiting 10)) (fun t => (t.chan 1).dutyMin.toNat) = some 0x10000 := by decide

theorem witness_SetMaxEffect : (1 : ChanIx).val < (waiting 10).params.nCh ∧ BoundsLegal ((waiting 10).chan 1) ∧
    look (exec (.setMax 1 0) (waiting 10)) (fun t => ((t.chan 1).dutyMax.toNat, (t.chan 1).fire.toNat)) = some (0, 0) := by decide

/-- Both clauses of `SETONLINE`, the offline one on an enabled and on a disabled channel. -/
theorem witness_SetOnlineEffect : (1 : ChanIx).val < (waiting 10).params.nCh ∧ BoundsLegal ((waiting 10).chan 1) ∧
    ((waiting 10).chan 1).enabled = true ∧ ((waiting 10).chan 0).enabled = false ∧ (0 : ChanIx).val < (waiting 10).params.nCh := by decide

theorem witness_LimitThenDutyClamps : (0 : ChanIx).val < fresh.params.nCh ∧ BoundsLegal (fresh.chan 0) := by decide

/-- Both clauses of `SETLUT`: no known semi-period, and one. -/
theorem witness_SetLutEffect : (0 : ChanIx).val < fresh.params.nCh ∧ fresh.semi (fresh.chan 0).mode = 0 ∧
    (1 : ChanIx).val < (waiting 10).params.nCh ∧ ¬ (true = true ∧ (waiting 10).semi ((waiting 10).chan 1).mode = 0) ∧
    BoundsLegal ((waiting 10).chan 1) := by decide

/-- Both clauses of `SETSEMI`: a channel that uses the table, and none; a channel written off and none. -/
theorem witness_SetSemiEffect :
    (∃ c : ChanIx, c.val < fresh.params.nCh ∧ ((pcState { running .pc 1 0x8000 with lutEn := true } 0).chan c).mode = .pc ∧
      ((pcState { running .pc 1 0x8000 with lutEn := true } 0).chan c).lutEn = true) ∧
    (¬ ∃ c : ChanIx, c.val < (waiting 10).params.nCh ∧ ((waiting 10).chan c).mode = .pc ∧ ((waiting 10).chan c).lutEn = true) ∧
    (∀ c : ChanIx, c.val < (waiting 10).params.nCh → ((waiting 10).chan c).mode = .pc → BoundsLegal ((waiting 10).chan c)) ∧
    InUnit (pcState { running .pc 1 0x8000 with lutEn := true } 0) .pc 0 ∧
    look (exec (.setSemi .pc 1) (pcState { running .pc 1 0x8000 with lutEn := true } 0)) (fun t => (t.chan 0).fire.toNat) = some 0 := by
  decide +kernel

/-- The four clauses of `BEGIN`: enabled; a pin out of range or owned; table mode with no semi-period; accepted, with the unit
running and stopped. -/
theorem witness_BeginEffect :
    ((waiting 10).chan 1).enabled = true ∧ ((waiting 10).chan 0).enabled = false ∧ (waiting 10).params.nPins ≤ (32 : BitVec 8).toNat ∧
    ¬ (waiting 10).params.nPins ≤ (31 : BitVec 8).toNat ∧
    ((1 : ChanIx) ≠ 0 ∧ (1 : ChanIx).val < (waiting 10).params.nCh ∧ ((waiting 10).chan 1).pinsel = 5) ∧
    (¬ ∃ k : ChanIx, k ≠ 0 ∧ k.val < (waiting 10).params.nCh ∧ ((waiting 10).chan k).enabled = true ∧ ((waiting 10).chan k).pinsel = 31) ∧
    ((waiting 10).chan 0).lutEn = false ∧ BoundsLegal ((waiting 10).chan 0) ∧
    (∃ k, InUnit (waiting 10) .pc k) ∧ (¬ ∃ k, InUnit (waiting 10) .cs k) ∧
    (({ Channel.reset with lutEn := true } : Channel).enabled = false ∧ fresh.semi .cs = 0) := by decide

/-- Both clauses of `END`; the last channel of its unit, and one of two. -/
theorem witness_EndEffect : ((waiting 10).chan 1).enabled = true ∧ (1 : ChanIx).val < (waiting 10).params.nCh ∧
    (¬ ∃ k, k ≠ 1 ∧ InUnit (waiting 10) .pc k) ∧
    (∃ k, k ≠ 1 ∧ InUnit ((waiting 10).setChan 0 (running .pc 4 0)) .pc k) ∧ ((waiting 10).chan 0).enabled = false := by decide

/-- Words with `op = 0x0` that are not `NOP`: the least and the greatest. -/
theorem witness_NopAnswersZero : (0x00000001 : Word).toNat ≠ 0 ∧ (0x0FFFFFFF : Word).toNat ≠ 0 ∧ (0x0FFFFFFF : Word).toNat < 2 ^ 28 := by
  decide

/-- `GET PEND` of a channel that waits and of one that does not. -/
theorem witness_GetReadsView : (1 : ChanIx).val < (waiting 10).params.nCh ∧ ((waiting 10).chan 1).pend = some 5000 ∧
    ((waiting 10).chan 0).pend = none := by decide

theorem pinsSeparate_pc (d : Duty) (n : Int) : PinsSeparate (pcState (running .pc 1 d) n) := by
  refine pinsSeparate_single 0 (fun c h => ?_) (show (1 : BitVec 8).toNat < 32 by decide)
  have hc : (pcState (running .pc 1 d) n).chan c = (fresh.setChan 0 (running .pc 1 d)).chan c := rfl
  rw [hc, chan_setChan] at h
  split at h
  · assumption
  · simp [fresh_disabled] at h

/-- `ZC.PC`: the unit stopped; and running, with every branch of the outcome at its boundary values. -/
theorem witness_ZeroCrossPhaseControl :
    (¬ ∃ c, InUnit fresh .pc c) ∧ PinsSeparate fresh ∧
    (∃ c, InUnit (pcState (running .pc 1 0xFFFF) 9) .pc c) ∧ PinsSeparate (pcState (running .pc 1 0xFFFF) 9) ∧
    zcDelay (pcState (running .pc 1 0xFFFF) 9) 0xFFFF = 100 ∧
    ZcOutcome (pcState (running .pc 1 0x10000) 9) 0 0x10000 true none ∧
    ZcOutcome (pcState (running .pc 1 0) 9) 0 0 false none ∧
    ZcOutcome fresh 0 0x8000 false none ∧
    ZcOutcome (pcState (running .pc 1 0xFFFF) 9) 99 0xFFFF false (some 100) ∧
    ZcOutcome (pcState (running .pc 1 0xFFFF) 9) 100 0xFFFF true none ∧
    ZcOutcome (pcState (running .pc 1 0xFFFF) 9) 150 0xFFFF true none ∧
    (ZcOutcome (pcState (running .pc 1 0xFFFF) 9) 151 0xFFFF false none ∧ ZcDropped (pcState (running .pc 1 0xFFFF) 9) 151 0xFFFF) ∧
    ¬ ZcDropped (pcState (running .pc 1 0xFFFF) 9) 150 0xFFFF := by
  refine ⟨by decide, ⟨by decide, by decide⟩, by decide, pinsSeparate_pc _ _, by decide, ?_, ?_, ?_, ?_, ?_, ?_, ⟨?_, by decide⟩, by decide⟩
  · exact ⟨rfl, rfl⟩
  · exact ⟨rfl, rfl⟩
  · exact ⟨rfl, rfl⟩
  · exact ⟨rfl, 100, rfl, by decide⟩
  · exact ⟨rfl, rfl⟩
  · exact ⟨rfl, rfl⟩
  · exact ⟨rfl, rfl⟩

theorem waiting_pending {n : Int} {c : ChanIx} {t : Ticks} : Pending (waiting n) c t ↔ c = 1 ∧ t = 5000 := by
  have hc : (waiting n).chan c = (fresh.setChan 1 { running .pc 5 0x8000 with pend := some 5000 }).chan c := rfl
  simp only [Pending, InUnit, hc, chan_setChan]
  split
  · next h => subst h; simp [running, waiting, fresh, State.resetOf, params, eq_comm]
  · next h => simp [fresh_disabled, h]

theorem waiting_alarm : AlarmInv (waiting 4999) where
  armed_iff := by simp only [waiting_pending]; exact ⟨fun _ => ⟨1, 5000, rfl, rfl⟩, fun _ => rfl⟩
  is_least _ := by
    simp only [waiting_pending]
    exact ⟨⟨1, rfl, rfl⟩, fun _ t h => h.2 ▸ BitVec.le_refl _⟩
  ahead _ := by decide

theorem waiting_pinsSeparate : PinsSeparate (waiting 4999) := pinsSeparate_single 1 (by decide) (by decide)

/-- The state invariants hold of a state with a waiting channel and an armed alarm one tick ahead. -/
theorem waiting_inv : (waiting 4999).Inv where
  channels c _ := by
    have h : ∀ c : ChanIx, c ≠ 1 → (waiting 4999).chan c = Channel.reset := by decide
    by_cases hc : c = 1
    · subst hc
      exact ⟨by decide, by decide, by decide, ⟨by decide, fun _ _ => rfl, fun _ h => by cases h⟩, by decide, by decide,
        fun _ => by decide, by decide, by decide⟩
    · have := h c hc
      constructor <;> simp [this, Channel.reset, IsFire, IsMapped, BoundsLegal]
  alarm := waiting_alarm
  pinsSeparate := waiting_pinsSeparate
  pin_owned p h := by
    have : (waiting 4999).pin p = (decide (p.toNat < 32) && (0 : BitVec 32).getLsbD p.toNat) := rfl
    rw [this] at h; simp at h
  stopped u h := by
    cases u
    · exact absurd ⟨1, by decide⟩ h
    · rfl
  idle _ := rfl
  reserved := by decide

/-- `TICK`, PCU part: a pending delay the counter reaches, one it does not reach, and the unit stopped. -/
theorem witness_TickPhaseControl :
    ({ waiting 4999 with inputs := [.tick] } : State).inputs = .tick :: [] ∧ PinsSeparate (waiting 4999) ∧ AlarmInv (waiting 4999) ∧
    Pending (waiting 4999) 1 5000 ∧ Pending (waiting 10) 1 5000 ∧ (¬ ∃ c, InUnit fresh .pc c) := by
  refine ⟨rfl, waiting_pinsSeparate, waiting_alarm, ?_, ?_, by decide⟩ <;> exact waiting_pending.2 ⟨rfl, rfl⟩

theorem pinsSeparate_cs (semi : Ticks) (n : Int) (pol : Bool) : PinsSeparate (csState (running .cs 7 0x8000) semi n pol) := by
  have hc : ∀ c, (csState (running .cs 7 0x8000) semi n pol).chan c = (fresh.setChan 0 (running .cs 7 0x8000)).chan c := fun _ => rfl
  exact pinsSeparate_single 0 (fun c h => by rw [hc] at h; revert c; decide) (show (7 : BitVec 8).toNat < 32 by decide)

/-- `TICK`, CSU part: stopped, idle, counting up to the last tick before the boundary, and the boundary. -/
theorem witness_TickCycleStealing :
    (¬ ∃ c, InUnit fresh .cs c) ∧ (∃ c, InUnit (csState (running .cs 7 0x8000) 0 0 false) .cs c) ∧
    PinsSeparate (csState (running .cs 7 0x8000) 100 98 false) ∧
    (csState (running .cs 7 0x8000) 100 98 false).ucs.count.toInt + 1 < (csState (running .cs 7 0x8000) 100 98 false).ucs.semi.toNat ∧
    ((csState (running .cs 7 0x8000) 100 99 false).ucs.semi.toNat : Int) ≤ (csState (running .cs 7 0x8000) 100 99 false).ucs.count.toInt + 1 := by
  refine ⟨by decide, by decide, pinsSeparate_cs _ _ _, by decide, by decide⟩

/-- `ZC.CS`: stopped, idle, and the three cases of a running unit where they meet. -/
theorem witness_ZeroCrossCycleStealing :
    (¬ ∃ c, InUnit fresh .cs c) ∧ (csState (running .cs 7 0x8000) 0 0 false).ucs.semi = 0 ∧
    (∃ c, InUnit (csState (running .cs 7 0x8000) 10000 4999 false) .cs c) ∧ PinsSeparate (csState (running .cs 7 0x8000) 10000 4999 false) ∧
    CsNearPassed (csState (running .cs 7 0x8000) 10000 4999 false) ∧ ¬ CsNearPassed (csState (running .cs 7 0x8000) 10000 5000 false) ∧
    CsNearPassed (csState (running .cs 7 0x8000) 1 0 false) ∧ ¬ CsNearPassed (csState (running .cs 7 0x8000) 1 1 false) ∧
    0 ≤ (0 : BitVec 16).toInt ∧ (0xFFFF : BitVec 16).toInt < 0 := by
  refine ⟨by decide, by decide, by decide, pinsSeparate_cs _ _ _, by decide, by decide, by decide, by decide, by decide, by decide⟩

/-- A clock with a `TICK` and a `ZC.CS`: the TICK boundary with `SEMI = 1`, and the last tick before a boundary. -/
theorem witness_OneBoundaryPerClock :
    ({ csState (running .cs 7 0x8000) 1 0 false with inputs := [.tick, .zcCS 0] } : State).inputs = .tick :: .zcCS 0 :: [] ∧
    PinsSeparate (csState (running .cs 7 0x8000) 1 0 false) ∧ (∃ c, InUnit (csState (running .cs 7 0x8000) 1 0 false) .cs c) ∧
    (csState (running .cs 7 0x8000) 1 0 false).ucs.semi ≠ 0 ∧
    ((csState (running .cs 7 0x8000) 1 0 false).ucs.semi.toNat : Int) ≤ (csState (running .cs 7 0x8000) 1 0 false).ucs.count.toInt + 1 ∧
    (csState (running .cs 7 0x8000) 100 98 false).ucs.count.toInt + 1 < (csState (running .cs 7 0x8000) 100 98 false).ucs.semi.toNat := by
  refine ⟨rfl, pinsSeparate_cs _ _ _, by decide, by decide, by decide, by decide⟩

theorem witness_ResetClock : ({ waiting 10 with inputs := [.rst, .tick] } : State).inputs = .rst :: [.tick] := rfl

theorem witness_ClockTakesStepsInOrder : ({ rst := false, zcPC := some 0, zcCS := none, cmd := some 0 } : Clock).rst = false := rfl

theorem witness_SilentEnvironmentTicks : (waiting 10).inputs = [] := rfl

theorem witness_StateInvariantsKept : ∃ t, (waiting 4999).Inv ∧ step (waiting 4999) = .next t := ⟨_, waiting_inv, rfl⟩

/-- A run from reset at whose end an enabled channel is offline. -/
theorem witness_OffChannelsStayLow : ∃ t, Host.Core.run Sys2Proof.core 1 ({ fresh with inputs := [.cmd 0x10000001] } : State) = .next t ∧
    (t.chan 0).enabled = true ∧ (t.chan 0).online = false := ⟨_, rfl, by decide, by decide⟩

/-- A refused command and an accepted one. -/
theorem witness_RefusalIsPrecise : (∃ t, exec (.setLut 0 true) fresh = .next t ∧ t.rsp.err = true) ∧
    ∃ t, exec (.endChan 0) fresh = .next t ∧ t.rsp.err = false ∧ ∀ m, Instr.endChan 0 ≠ .clrErr m :=
  ⟨⟨_, rfl, by decide⟩, ⟨_, rfl, by decide, by decide⟩⟩

/-- A command after which a pin is still high, and the `BEGIN` that starts unit CS with `POL = 1`. -/
theorem witness_CommandsNeverRaisePins :
    (∃ t, exec .nop ((waiting 10).setPin 5 true) = .next t ∧ t.pin 5 = true) ∧
    ∃ t, exec (.beginChan 0 .cs 7) { fresh with ucs := { semi := 100, count := 0, pol := true } } = .next t ∧
      t.ucs.pol = false ∧ ¬ ∃ k, InUnit fresh .cs k :=
  ⟨⟨_, rfl, by decide⟩, ⟨_, rfl, by decide, by decide⟩⟩

theorem witness_EventsKeepConfiguration : ∃ t, ({ waiting 4999 with inputs := [.zcPC 0] } : State).inputs = .zcPC 0 :: [] ∧
    Input.zcPC 0 ≠ .rst ∧ (∀ w, Input.zcPC 0 ≠ .cmd w) ∧ step { waiting 4999 with inputs := [.zcPC 0] } = .next t :=
  ⟨_, rfl, by decide, nofun, rfl⟩

theorem witness_InstanceNeverChanges : ∃ t, step { waiting 4999 with inputs := [.rst] } = .next t := ⟨_, rfl⟩

theorem witness_CsCounterStaysInRange : ∃ t, -32768 ≤ (csState (running .cs 7 0x8000) 100 (-32768) false).ucs.count.toInt ∧
    (csState (running .cs 7 0x8000) 100 (-32768) false).ucs.count.toInt ≤ 0xFFFF ∧
    step (csState (running .cs 7 0x8000) 100 (-32768) false) = .next t := ⟨_, by decide, by decide, rfl⟩

/-- A CS channel at half duty with a balance of -1. -/
theorem witness_DebtTracksTarget : PinsSeparate (csState (running .cs 7 0x8000) 100 0 false) ∧
    InUnit (csState (running .cs 7 0x8000) 100 0 false) .cs 0 ∧ 0 < (0x8000 : Duty).toNat ∧ (0x8000 : Duty).toNat < 0x10000 ∧
    ((csState (running .cs 7 0x8000) 100 0 false).chan 0).debt.toNat < 0x10000 ∧
    -1 ≤ ((csState (running .cs 7 0x8000) 100 0 false).chan 0).bal.toInt ∧
    ((csState (running .cs 7 0x8000) 100 0 false).chan 0).bal.toInt ≤ 1 := by
  refine ⟨pinsSeparate_cs _ _ _, by decide, by decide, by decide, by decide, by decide, by decide⟩

/-- A PC channel that waits for one tick and a CS channel at half duty, in one state. -/
def bothUnits : State :=
  { (fresh.setChan 0 { running .pc 1 0x8000 with pend := some 1 }).setChan 1 (running .cs 7 0x8000) with
    upc := { semi := 10000, count := 0, alarm := 1, armed := true }, ucs := { semi := 100, count := 0, pol := false } }

theorem witness_FreeRunningBoundary : bothUnits.inputs = [] ∧ PinsSeparate bothUnits ∧ (∃ c, InUnit bothUnits .pc c) ∧
    (∃ c, InUnit bothUnits .cs c) ∧ bothUnits.ucs.semi ≠ 0 ∧ bothUnits.ucs.count = 0 :=
  ⟨rfl, ⟨by decide, by decide +kernel⟩, by decide, by decide, by decide, by decide⟩

/-- A tick in which the waiting channel's pin rises, in a state with a presented tick. -/
theorem witness_AlarmFiresOnTime : ∃ t, ({ waiting 4999 with inputs := [.tick] } : State).Inv ∧
    step { waiting 4999 with inputs := [.tick] } = .next t ∧ InUnit (waiting 4999) .pc 1 ∧ (waiting 4999).chanPin 1 = false ∧
    t.chanPin 1 = true :=
  have k := waiting_inv.channels
  ⟨_, ⟨fun c h => ⟨(k c h).1, (k c h).2, (k c h).3, (k c h).4, (k c h).5, (k c h).6, (k c h).7, (k c h).8, (k c h).9⟩,
    ⟨waiting_alarm.1, waiting_alarm.2, waiting_alarm.3⟩, ⟨waiting_pinsSeparate.1, waiting_pinsSeparate.2⟩, waiting_inv.4,
    waiting_inv.5, waiting_inv.6, waiting_inv.7⟩, rfl, by decide, by decide, by decide⟩

end Sys2Proof.Machine.Tests
end

/-! The state invariants of R45 (`State.Inv`), taken apart by what can break them. `Derived` is what `set_duty` computes of a channel;
`Safe` is what holds at every point inside a step; the alarm is `AlarmLeast` with `Ahead`. `InvBut` lets some channels be stale, as a
configuration command leaves them until it propagates (R111). -/

namespace Sys2Proof.Machine

/-! ### The parts of the invariants -/

/-- The registers `set_duty` computes of a channel agree with its configuration (R45 items 1 to 3). -/
structure Derived (s : State) (ch : Channel) : Prop where
  duty_le_limit : ch.duty.toNat ≤ ch.limit.toNat
  mapped : IsMapped ch
  fire : IsFire s ch
  fire_le_one : ch.fire.toNat ≤ 0x10000

/-- What of R45 holds of a channel even while its derived registers are stale. -/
structure ChannelSafe (s : State) (c : ChanIx) : Prop where
  bounds : BoundsLegal (s.chan c)
  offline_zero : (s.chan c).online = false → (s.chan c).fire = 0
  lut_needs_semi : (s.chan c).lutEn = true → s.semi (s.chan c).mode ≠ 0
  pend_waits : (s.chan c).pend ≠ none →
    (s.chan c).enabled = true ∧ (s.chan c).mode = .pc ∧ s.chanPin c = false ∧ (s.chan c).fire ≠ 0
  zero_is_low : (s.chan c).enabled = true → (s.chan c).fire = 0 → s.chanPin c = false
  balance : -1 ≤ (s.chan c).bal.toInt ∧ (s.chan c).bal.toInt ≤ 1

/-- R45 without the derived registers (`Derived`) and without the alarm (item 7). -/
structure Safe (s : State) : Prop where
  channels : ∀ c : ChanIx, c.val < s.params.nCh → ChannelSafe s c
  pinsSeparate : PinsSeparate s
  pin_owned : ∀ p : BitVec 8, s.pin p = true → ∃ c : ChanIx, c.val < s.params.nCh ∧ (s.chan c).enabled = true ∧ (s.chan c).pinsel = p
  stopped : ∀ u : UnitId, (¬ ∃ c, InUnit s u c) → s.count u = 0
  idle : s.ucs.semi = 0 → s.ucs.count = 0
  reserved : s.errFlags &&& 0xF0 = 0

/-- Every pending delay lies ahead of the counter. -/
def Ahead (s : State) : Prop := ∀ c t, Pending s c t → s.upc.count.toInt < (t.toNat : Int)

/-- The invariants of R45 but for the derived registers of the stale channels. -/
structure InvBut (stale : ChanIx → Prop) (s : State) : Prop where
  safe : Safe s
  least : AlarmLeast s
  ahead : Ahead s
  derived : ∀ c : ChanIx, c.val < s.params.nCh → ¬ stale c → Derived s (s.chan c)

/-- No channel is stale: the invariants of R45 in parts (`inv_iff_wholeInv`). -/
abbrev WholeInv (s : State) : Prop := InvBut (fun _ => False) s

/-- The parts together are R45. -/
theorem inv_iff_wholeInv {s : State} : s.Inv ↔ WholeInv s := by
  constructor
  · intro h
    refine ⟨⟨fun c hc => ?_, h.pinsSeparate, h.pin_owned, h.stopped, h.idle, h.reserved⟩,
      ⟨h.alarm.armed_iff, h.alarm.is_least⟩, fun c t hp => ?_, fun c hc _ => ?_⟩
    · have k := h.channels c hc
      exact ⟨k.bounds, k.fire.1, k.lut_needs_semi, k.pend_waits, k.zero_is_low, k.balance⟩
    · have armed := h.alarm.armed_iff.2 ⟨c, t, hp⟩
      have least : s.upc.alarm.toNat ≤ t.toNat := (h.alarm.is_least armed).2 c t hp
      have := h.alarm.ahead armed
      omega
    · have k := h.channels c hc
      exact ⟨k.duty_le_limit, k.mapped, k.fire, k.fire_le_one⟩
  · intro h
    refine ⟨fun c hc => ?_, ⟨h.least.1, h.least.2, fun armed => ?_⟩, h.safe.pinsSeparate, h.safe.pin_owned, h.safe.stopped,
      h.safe.idle, h.safe.reserved⟩
    · have k := h.safe.channels c hc
      have d := h.derived c hc not_false
      exact ⟨k.bounds, d.duty_le_limit, d.mapped, d.fire, d.fire_le_one, k.lut_needs_semi, k.pend_waits, k.zero_is_low, k.balance⟩
    · obtain ⟨⟨c, hp⟩, -⟩ := h.least.2 armed
      exact h.ahead c _ hp

theorem InvBut.mono {S T : ChanIx → Prop} {s : State} (h : InvBut S s) (hST : ∀ c : ChanIx, c.val < s.params.nCh → S c → T c) :
    InvBut T s :=
  ⟨h.safe, h.least, h.ahead, fun c hc hT => h.derived c hc (hT ∘ hST c hc)⟩

/-! ### What each part depends on -/

/-- `FIRE` depends on the table and on the semi-period of the channel's unit (R26). -/
theorem Derived.frame {s t : State} {ch : Channel} (h : Derived s ch) (hl : t.lut = s.lut) (hs : t.semi ch.mode = s.semi ch.mode) :
    Derived t ch :=
  ⟨h.duty_le_limit, h.mapped, by simpa only [IsFire, hl, hs] using h.fire, h.fire_le_one⟩

theorem Derived.of_sameConfiguration {s : State} {a b : Channel} (h : Derived s a) (hab : SameConfiguration a b) : Derived s b := by
  obtain ⟨hduty, hlimit, hmin, hmax, hmapped, hfire, -, honline, hlut, hmode, -⟩ := hab
  obtain ⟨hle, hm, hf, hone⟩ := h
  simp only [IsMapped, IsFire, hduty, hlimit, hmin, hmax, hmapped, hfire, honline, hlut, hmode] at hle hm hf hone
  exact ⟨hle, hm, hf, hone⟩

/-- With legal bounds the derived `FIRE` is at most 1.0 (R112, R146). -/
theorem Derived.of_isFire {s : State} {ch : Channel} (hb : BoundsLegal ch) (hd : ch.duty.toNat ≤ ch.limit.toNat) (hm : IsMapped ch)
    (hf : IsFire s ch) : Derived s ch := by
  obtain ⟨hlim, hmin, hmax⟩ := hb
  obtain ⟨hoff, hlin, htab⟩ := hf
  refine ⟨hd, hm, ⟨hoff, hlin, htab⟩, ?_⟩
  have hmapped : ch.mapped.toNat ≤ 0x10000 := by
    have := (remap_le (d := ch.duty.toNat) (by omega) hmin).2
    rw [remap, Nat.shiftRight_eq_div_pow] at this
    rw [hm]; omega
  cases ho : ch.online
  · simp [hoff ho]
  · cases hl : ch.lutEn
    · rw [hlin ho hl]; exact hmapped
    · rw [htab ho hl]; exact lutFire_le _ _ _

/-- A channel that is as before stays safe if its pin did not rise and the table it may use is still backed by a semi-period. -/
theorem ChannelSafe.congr {s t : State} {k : ChanIx} (h : ChannelSafe s k) (hk : t.chan k = s.chan k)
    (hsemi : (s.chan k).lutEn = true → t.semi (s.chan k).mode ≠ 0)
    (hpin : (s.chan k).enabled = true → t.chanPin k = true → s.chanPin k = true) : ChannelSafe t k := by
  have low : (s.chan k).enabled = true → s.chanPin k = false → t.chanPin k = false := fun he hs => by
    by_contra ht
    simp [hpin he (by simpa using ht)] at hs
  refine ⟨by rw [hk]; exact h.bounds, by rw [hk]; exact h.offline_zero, by rw [hk]; exact hsemi, ?_, ?_, by rw [hk]; exact h.balance⟩
  · rw [hk]
    intro hp
    obtain ⟨he, hm, hl, hf⟩ := h.pend_waits hp
    exact ⟨he, hm, low he hl, hf⟩
  · rw [hk]; exact fun he hf => low he (h.zero_is_low he hf)

/-- The same channels are registered, with the same units and pins. -/
structure SameRegistration (s t : State) : Prop where
  params : t.params = s.params
  chans : ∀ c, (t.chan c).enabled = (s.chan c).enabled ∧ (t.chan c).mode = (s.chan c).mode ∧ (t.chan c).pinsel = (s.chan c).pinsel

namespace SameRegistration
variable {s t : State} (h : SameRegistration s t)
include h

theorem inUnit (u : UnitId) (c : ChanIx) : InUnit t u c ↔ InUnit s u c := by
  obtain ⟨he, hm, -⟩ := h.chans c
  simp only [InUnit, h.params, he, hm]

theorem pinsSeparate (hs : PinsSeparate s) : PinsSeparate t := by
  have hpin := fun c => (h.chans c).2.2
  have hen := fun c => (h.chans c).1
  exact ⟨by simpa only [h.params, hpin, hen] using hs.inRange, by simpa only [h.params, hpin, hen] using hs.distinct⟩

/-- Pins stay owned when only pins of existing enabled channels rise. -/
theorem pin_owned (hs : Safe s) (hpins : ∀ q, t.pin q = true → s.pin q = true ∨
      ∃ c : ChanIx, c.val < s.params.nCh ∧ (s.chan c).enabled = true ∧ (s.chan c).pinsel = q) (p : BitVec 8) (hp : t.pin p = true) :
    ∃ c : ChanIx, c.val < t.params.nCh ∧ (t.chan c).enabled = true ∧ (t.chan c).pinsel = p := by
  obtain ⟨c, hc, he, hpin⟩ := (hpins p hp).elim (hs.pin_owned p) id
  obtain ⟨hen, -, hsel⟩ := h.chans c
  exact ⟨c, by rw [h.params]; exact hc, by rw [hen]; exact he, by rw [hsel]; exact hpin⟩

end SameRegistration

/-- A change of one channel, of its pin and of flags keeps the state safe if it keeps that channel safe. -/
theorem Safe.of_local {s t : State} {c : ChanIx} (hs : Safe s) (hreg : SameRegistration s t) (others : OtherChans s t c)
    (hc : c.val < s.params.nCh) (hsemi : ∀ u, t.semi u = s.semi u) (hcount : ∀ u, t.count u = s.count u)
    (hpins : ∀ q, t.pin q = true → s.pin q = true ∨ (s.chan c).enabled = true ∧ (s.chan c).pinsel = q)
    (hres : t.errFlags &&& 0xF0 = 0) (own : ChannelSafe t c) : Safe t where
  channels k hk := by
    rw [hreg.params] at hk
    by_cases hkc : k = c
    · exact hkc ▸ own
    · have safe := hs.channels k hk
      refine safe.congr (others k hkc) (by rw [hsemi]; exact safe.lut_needs_semi) fun he hp => ?_
      rw [State.chanPin, others k hkc] at hp
      obtain hp | ⟨hce, hsel⟩ := hpins _ hp
      · exact hp
      · exact absurd (hs.pinsSeparate.distinct k c hk hc he hce hsel.symm) hkc
  pinsSeparate := hreg.pinsSeparate hs.pinsSeparate
  pin_owned := hreg.pin_owned hs fun q hq => (hpins q hq).imp id fun ⟨he, hp⟩ => ⟨c, hc, he, hp⟩
  stopped u hu := by
    simp only [hreg.inUnit] at hu
    rw [hcount]; exact hs.stopped u hu
  idle h := by
    have hcs := hcount .cs
    rw [count_cs, count_cs] at hcs
    rw [hcs]; exact hs.idle (by rw [← semi_cs, ← hsemi]; exact h)
  reserved := hres

/-- Parameters, channels and pins are as before. -/
structure SameFile (s t : State) : Prop where
  params : t.params = s.params
  chans : ∀ c, t.chan c = s.chan c
  pins : t.pins = s.pins

theorem SameFile.sameRegistration {s t : State} (h : SameFile s t) : SameRegistration s t := ⟨h.params, fun c => by simp [h.chans]⟩

theorem SameFile.pin {s t : State} (h : SameFile s t) (p : BitVec 8) : t.pin p = s.pin p := pin_congr h.params h.pins p

theorem SameFile.pending {s t : State} (h : SameFile s t) (c : ChanIx) (x : Ticks) : Pending t c x ↔ Pending s c x := by
  simp only [Pending, h.sameRegistration.inUnit, h.chans]

/-- With the register file and the pins as before, the units' registers and the flags are all that can break safety. -/
theorem Safe.of_sameFile {s t : State} (hs : Safe s) (h : SameFile s t)
    (hsemi : ∀ c : ChanIx, c.val < s.params.nCh → (s.chan c).lutEn = true → t.semi (s.chan c).mode ≠ 0)
    (stopped : ∀ u, (¬ ∃ c, InUnit s u c) → t.count u = 0) (idle : t.ucs.semi = 0 → t.ucs.count = 0)
    (reserved : t.errFlags &&& 0xF0 = 0) : Safe t where
  channels c hc := by
    rw [h.params] at hc
    exact (hs.channels c hc).congr (h.chans c) (hsemi c hc) fun _ hp => by rwa [State.chanPin, h.pin, h.chans] at hp
  pinsSeparate := h.sameRegistration.pinsSeparate hs.pinsSeparate
  pin_owned := h.sameRegistration.pin_owned hs fun q hq => .inl (by rwa [h.pin] at hq)
  stopped u hu := by
    simp only [h.sameRegistration.inUnit] at hu
    exact stopped u hu
  idle := idle
  reserved := reserved

/-- The alarm registers stay right while the same delays are pending. -/
theorem alarmLeast_congr {s t : State} (hs : AlarmLeast s) (hpend : ∀ c x, Pending t c x ↔ Pending s c x)
    (harmed : t.upc.armed = s.upc.armed) (halarm : t.upc.alarm = s.upc.alarm) : AlarmLeast t := by
  unfold AlarmLeast
  simp only [hpend, harmed, halarm]
  exact hs

theorem Ahead.congr {s t : State} (hs : Ahead s) (hpend : ∀ c x, Pending t c x → Pending s c x) (hcount : t.upc.count = s.upc.count) :
    Ahead t := fun c x hp => by rw [hcount]; exact hs c x (hpend c x hp)

/-- With the register file, the pins, the semi-periods, the table and unit PC as before, only unit CS's counter and the flags
can break the invariants. -/
theorem InvBut.of_sameFile {S : ChanIx → Prop} {s t : State} (hs : InvBut S s) (h : SameFile s t) (hl : t.lut = s.lut)
    (hupc : t.upc = s.upc) (hsemi : t.ucs.semi = s.ucs.semi) (hcount : (¬ ∃ c, InUnit s .cs c) ∨ s.ucs.semi = 0 → t.ucs.count = 0)
    (hres : t.errFlags &&& 0xF0 = 0) : InvBut S t := by
  have semi := semi_congr (congrArg PcUnit.semi hupc) hsemi
  refine ⟨hs.safe.of_sameFile h ?_ ?_ ?_ hres, alarmLeast_congr hs.least h.pending (by rw [hupc]) (by rw [hupc]),
    hs.ahead.congr (fun c x => (h.pending c x).1) (by rw [hupc]), ?_⟩
  · intro c hc; rw [semi]; exact (hs.safe.channels c hc).lut_needs_semi
  · intro u hu
    cases u
    · have := hs.safe.stopped .pc hu
      rw [count_pc] at this ⊢
      rw [hupc, this]
    · exact hcount (.inl hu)
  · intro h0; exact hcount (.inr (by rw [← hsemi]; exact h0))
  · intro c hc hS
    rw [h.params] at hc
    rw [h.chans]; exact (hs.derived c hc hS).frame hl (semi _)

/-- The invariants say nothing of the response, the presented steps, the polarity and the defined flags. -/
theorem InvBut.of_sameRegisters {S : ChanIx → Prop} {s t : State} (hs : InvBut S s) (h : SameFile s t) (hl : t.lut = s.lut)
    (hupc : t.upc = s.upc) (hsemi : t.ucs.semi = s.ucs.semi) (hcount : t.ucs.count = s.ucs.count) (hres : t.errFlags &&& 0xF0 = 0) :
    InvBut S t :=
  hs.of_sameFile h hl hupc hsemi (fun hz => hcount ▸ hz.elim (hs.safe.stopped .cs) hs.safe.idle) hres

/-! ### Responses, flags and refusals -/

/-- The four error bits of R251 leave the reserved bits of `ERRFLAGS` 0 (R41). -/
theorem reserved_or_bit {f : BitVec 8} (e : ErrorCode) (h : f &&& 0xF0 = 0) : (f ||| BitVec.twoPow 8 e.bit) &&& 0xF0 = 0 := by
  have : BitVec.twoPow 8 e.bit &&& 0xF0 = 0 := by cases e <;> decide
  rw [BitVec.and_comm, BitVec.and_or_distrib_left, BitVec.and_comm, h, BitVec.and_comm, this]; rfl

theorem reserved_and {f : BitVec 8} (m : BitVec 8) (h : f &&& 0xF0 = 0) : (f &&& m) &&& 0xF0 = 0 := by
  rw [BitVec.and_assoc, BitVec.and_comm m, ← BitVec.and_assoc, h]; exact BitVec.zero_and

section
variable {S : ChanIx → Prop} {s : State} (h : InvBut S s)
include h

theorem InvBut.respond (b : Bool) (d : Word) : InvBut S (s.respond b d) :=
  h.of_sameRegisters ⟨rfl, fun _ => rfl, rfl⟩ rfl rfl rfl rfl h.safe.reserved

theorem InvBut.raise (e : ErrorCode) : InvBut S (s.raise e) :=
  h.of_sameRegisters ⟨rfl, fun _ => rfl, rfl⟩ rfl rfl rfl rfl (reserved_or_bit e h.safe.reserved)

theorem InvBut.clearFlags (m : BitVec 8) : InvBut S { s with errFlags := s.errFlags &&& ~~~m } :=
  h.of_sameRegisters ⟨rfl, fun _ => rfl, rfl⟩ rfl rfl rfl rfl (reserved_and _ h.safe.reserved)

theorem InvBut.takeInput (rest : List Input) : InvBut S { s with inputs := rest } :=
  h.of_sameRegisters ⟨rfl, fun _ => rfl, rfl⟩ rfl rfl rfl rfl h.safe.reserved

theorem InvBut.setPol (b : Bool) : InvBut S { s with ucs := { s.ucs with pol := b } } :=
  h.of_sameRegisters ⟨rfl, fun _ => rfl, rfl⟩ rfl rfl rfl rfl h.safe.reserved

/-- A running unit CS with a known semi-period may count to any value, and its counter may always be zeroed. -/
theorem InvBut.setCount_cs (x : Int) (hx : (∃ c, InUnit s .cs c) ∧ s.ucs.semi ≠ 0 ∨ x = 0) : InvBut S (s.setCount .cs x) := by
  refine h.of_sameFile ⟨rfl, fun _ => rfl, rfl⟩ rfl rfl rfl (fun hz => ?_) h.safe.reserved
  obtain ⟨hrun, hsemi⟩ | rfl := hx
  · exact absurd hz (by simp only [not_or, not_not]; exact ⟨hrun, hsemi⟩)
  · rfl

end

/-! ### A channel rewritten by `set_duty` or taken offline -/

/-- Writing a channel off leaves unit PC's semi-period and counter, whichever unit the channel belongs to. -/
theorem WrittenOff.upc_frame {s t : State} {c : ChanIx} (h : WrittenOff s c t) :
    t.upc.semi = s.upc.semi ∧ t.upc.count = s.upc.count := by
  cases hm : (s.chan c).mode
  · obtain ⟨-, -, hsemi, hcount⟩ := h.alarm_pc hm
    exact ⟨hsemi, hcount⟩
  · rw [h.alarm_cs hm]; exact ⟨rfl, rfl⟩

/-- Writing off a channel whose other registers were just rewritten is writing off the channel. -/
theorem WrittenOff.of_setChan {s t : State} {c : ChanIx} {x : Channel} (h : WrittenOff (s.setChan c x) c t)
    (hp : x.pinsel = (s.chan c).pinsel) (hm : x.mode = (s.chan c).mode) : WrittenOff s c t := by
  obtain ⟨hlow, hothers, hpend, hpc, hcs⟩ := h
  simp only [chan_setChan_same, hp, hm] at hlow hothers hpc hcs
  exact ⟨hlow, hothers, hpend, hpc, hcs⟩

/-- The outputs of channel `c` stay, and are already those of an off channel if `FIRE` is now 0. -/
structure OutputsKept (s : State) (c : ChanIx) (t : State) : Prop where
  pend : (t.chan c).pend = (s.chan c).pend
  pins : t.pins = s.pins
  upc : t.upc = s.upc
  already_off : (s.chan c).enabled = true → (t.chan c).fire = 0 → (s.chan c).pend = none ∧ s.chanPin c = false

/-- Channel `c`'s duty registers were rewritten and its outputs follow: written off, or kept (R111, R113, R117). -/
structure Rewritten (s : State) (c : ChanIx) (t : State) : Prop where
  registered : (t.chan c).enabled = (s.chan c).enabled ∧ (t.chan c).mode = (s.chan c).mode ∧ (t.chan c).pinsel = (s.chan c).pinsel
  bal : (t.chan c).bal = (s.chan c).bal
  others : OtherChans s t c
  frame : SameSurroundings s t
  outputs : WrittenOff s c t ∨ OutputsKept s c t

/-- `set_duty` rewrites its channel: an offline channel has `FIRE = 0` already, so it is off already. -/
theorem DutySet.rewritten {s t : State} {c : ChanIx} {v : Int} (h : DutySet s c v t) (hs : ChannelSafe s c) : Rewritten s c t := by
  obtain ⟨-, -, -, hen, honline, -, hmode, hpin⟩ := h.config
  refine ⟨⟨hen, hmode, hpin⟩, h.modulator.2, h.others, h.frame, ?_⟩
  by_cases hoff : (s.chan c).online = true ∧ (s.chan c).enabled = true ∧ (t.chan c).fire = 0
  · exact .inl (h.off hoff.1 hoff.2.1 hoff.2.2)
  · obtain ⟨hpend, hpins, hupc⟩ := h.keep hoff
    refine .inr ⟨hpend, hpins, hupc, fun he hf => ?_⟩
    have offline : (s.chan c).online = false := by
      by_contra hon
      exact hoff ⟨by simpa using hon, he, hf⟩
    have zero := hs.offline_zero offline
    refine ⟨?_, hs.zero_is_low he zero⟩
    by_contra hp
    obtain ⟨-, -, -, hne⟩ := hs.pend_waits hp
    exact hne zero

/-- `apply(c)` changes no configuration. -/
theorem applyOff_sameConfiguration (s : State) (c : ChanIx) : SameConfiguration (s.chan c) ((applyOff c s).chan c) := by
  by_cases h : (s.chan c).enabled = true ∧ (s.chan c).fire = 0
  · obtain ⟨-, hc, -⟩ := applyOff_off h.1 h.2
    simp [SameConfiguration, hc]
  · simp [SameConfiguration, applyOff_keep h]

/-- A channel taken offline: its registers as `SETONLINE c, 0` writes them (R117). -/
def Channel.offline (ch : Channel) : Channel := { ch with online := false, fire := 0 }

/-- `SETONLINE c, 0` rewrites its channel: `apply(c)` sees `FIRE = 0` (R117). -/
theorem rewritten_offline (s : State) (c : ChanIx) : Rewritten s c (applyOff c (s.setChan c (s.chan c).offline)) := by
  by_cases he : (s.chan c).enabled = true
  · obtain ⟨hw, hc, ho, hf, -⟩ := applyOff_off (s := s.setChan c (s.chan c).offline) (c := c)
      (by simpa [Channel.offline] using he) (by simp [Channel.offline])
    rw [chan_setChan_same] at hc
    exact ⟨by rw [hc]; exact ⟨rfl, rfl, rfl⟩, by rw [hc]; rfl, fun k hk => by rw [ho k hk, chan_setChan_ne _ _ hk], hf,
      .inl (hw.of_setChan rfl rfl)⟩
  · rw [applyOff_keep (by simp [Channel.offline, he])]
    exact ⟨by simp [Channel.offline], by simp [Channel.offline], fun k hk => chan_setChan_ne _ _ hk, by simp [SameSurroundings],
      .inr ⟨by simp [Channel.offline], rfl, rfl, fun h => absurd h he⟩⟩

section
variable {s t : State} {c : ChanIx} (h : Rewritten s c t)
include h

theorem Rewritten.sameRegistration : SameRegistration s t := by
  refine ⟨h.frame.1, fun k => ?_⟩
  by_cases hk : k = c
  · exact hk ▸ h.registered
  · simp [h.others k hk]

theorem Rewritten.upc_frame : t.upc.semi = s.upc.semi ∧ t.upc.count = s.upc.count := by
  obtain hw | hk := h.outputs
  · exact hw.upc_frame
  · rw [hk.upc]; exact ⟨rfl, rfl⟩

theorem Rewritten.semi (u : UnitId) : t.semi u = s.semi u := by
  obtain ⟨-, -, -, hucs, -⟩ := h.frame
  exact semi_congr h.upc_frame.1 (by rw [hucs]) u

theorem Rewritten.count (u : UnitId) : t.count u = s.count u := by
  obtain ⟨-, -, -, hucs, -⟩ := h.frame
  exact count_congr h.upc_frame.2 (by rw [hucs]) u

/-- No pin rises. -/
theorem Rewritten.pin_le (p : BitVec 8) (hp : t.pin p = true) : s.pin p = true := by
  obtain hw | hk := h.outputs
  · by_cases he : p = (s.chan c).pinsel
    · subst he; simp [hw.pin_low] at hp
    · rwa [hw.other_pins p he] at hp
  · rwa [pin_congr h.frame.1 hk.pins] at hp

theorem Rewritten.chanPin_le (hp : t.chanPin c = true) : s.chanPin c = true := by
  rw [State.chanPin, h.registered.2.2] at hp
  exact h.pin_le _ hp

/-- No delay is newly pending. -/
theorem Rewritten.pend_le {x : Ticks} (hp : (t.chan c).pend = some x) : (s.chan c).pend = some x := by
  obtain hw | hk := h.outputs
  · simp [hw.pend] at hp
  · rwa [hk.pend] at hp

theorem Rewritten.pending_le (k : ChanIx) (x : Ticks) (hp : Pending t k x) : Pending s k x := by
  refine ⟨(h.sameRegistration.inUnit _ _).1 hp.1, ?_⟩
  by_cases hk : k = c
  · subst hk; exact h.pend_le hp.2
  · rw [← h.others k hk]; exact hp.2

/-- An enabled channel whose `FIRE` is now 0 is off. -/
theorem Rewritten.off (he : (s.chan c).enabled = true) (hf : (t.chan c).fire = 0) : (t.chan c).pend = none ∧ t.chanPin c = false := by
  obtain hw | hk := h.outputs
  · exact ⟨hw.pend, by rw [State.chanPin, h.registered.2.2]; exact hw.pin_low⟩
  · obtain ⟨hpend, hlow⟩ := hk.already_off he hf
    refine ⟨hk.pend.trans hpend, ?_⟩
    by_contra ht
    simp [h.chanPin_le (by simpa using ht)] at hlow

theorem Rewritten.channelSafe (hs : ChannelSafe s c) (hb : BoundsLegal (t.chan c)) (hoff : (t.chan c).online = false → (t.chan c).fire = 0)
    (hlut : (t.chan c).lutEn = true → s.semi (s.chan c).mode ≠ 0) : ChannelSafe t c := by
  obtain ⟨hen, hmode, -⟩ := h.registered
  refine ⟨hb, hoff, by rw [h.semi, hmode]; exact hlut, fun hp => ?_, fun he hf => (h.off (hen ▸ he) hf).2, h.bal ▸ hs.balance⟩
  obtain ⟨x, hx⟩ := Option.ne_none_iff_exists'.1 hp
  obtain ⟨he, hm, hlow, -⟩ := hs.pend_waits (by simp [h.pend_le hx])
  refine ⟨hen.trans he, hmode.trans hm, ?_, fun hf => hp (h.off he hf).1⟩
  by_contra ht
  simp [h.chanPin_le (by simpa using ht)] at hlow

/-- The alarm is right after the rewrite: recomputed when a PC channel was written off, and about the same delays otherwise. -/
theorem Rewritten.alarmLeast (hs : ChannelSafe s c) (hl : AlarmLeast s) : AlarmLeast t := by
  have same (hpend : (t.chan c).pend = (s.chan c).pend ∨ (s.chan c).mode = .cs) (hupc : t.upc = s.upc) : AlarmLeast t := by
    refine alarmLeast_congr hl (fun k x => ⟨h.pending_le k x, fun hp => ⟨(h.sameRegistration.inUnit _ _).2 hp.1, ?_⟩⟩)
      (by rw [hupc]) (by rw [hupc])
    by_cases hk : k = c
    · subst hk
      obtain hpend | hcs := hpend
      · rw [hpend]; exact hp.2
      · exact absurd hp.1.2.2 (by simp [hcs])
    · rw [h.others k hk]; exact hp.2
  obtain hw | hk := h.outputs
  · cases hm : (s.chan c).mode
    · exact (hw.alarm_pc hm).1
    · exact same (.inr hm) (hw.alarm_cs hm)
  · exact same (.inl hk.pend) hk.upc

/-- A rewrite that leaves the channel's derived registers right keeps the invariants and takes the channel off the stale ones. -/
theorem Rewritten.inv {S : ChanIx → Prop} (hs : InvBut S s) (hc : c.val < s.params.nCh) (hb : BoundsLegal (t.chan c))
    (hlut : (t.chan c).lutEn = true → s.semi (s.chan c).mode ≠ 0) (hd : Derived t (t.chan c)) :
    InvBut (fun k => S k ∧ k ≠ c) t := by
  have safe := hs.safe.channels c hc
  obtain ⟨hparams, hl, hflags, -, -⟩ := h.frame
  refine ⟨hs.safe.of_local h.sameRegistration h.others hc h.semi h.count (fun q hq => .inl (h.pin_le q hq))
    (hflags ▸ hs.safe.reserved) (h.channelSafe safe hb hd.fire.1 hlut), h.alarmLeast safe hs.least,
    hs.ahead.congr h.pending_le h.upc_frame.2, fun k hk hS => ?_⟩
  by_cases hkc : k = c
  · exact hkc ▸ hd
  · rw [h.others k hkc]
    exact (hs.derived k (hparams ▸ hk) fun hSk => hS ⟨hSk, hkc⟩).frame hl (h.semi _)

end

/-- `set_duty` keeps the invariants and leaves its channel's derived registers right. -/
theorem InvBut.setDuty {S : ChanIx → Prop} {s : State} {c : ChanIx} (hs : InvBut S s) (hc : c.val < s.params.nCh) (v : Int) :
    InvBut (fun k => S k ∧ k ≠ c) (setDuty c v s) := by
  have safe := hs.safe.channels c hc
  obtain ⟨hd, -⟩ := setDuty_dutySet v safe.bounds
  obtain ⟨hlim, hmin, hmax, -, -, hlut, -, -⟩ := hd.config
  have hb : BoundsLegal ((Machine.setDuty c v s).chan c) := by rw [BoundsLegal, hlim, hmin, hmax]; exact safe.bounds
  refine (hd.rewritten safe).inv hs hc hb (by rw [hlut]; exact safe.lut_needs_semi)
    (.of_isFire hb ?_ hd.mapped hd.fire)
  have := hd.duty
  rw [hlim]; omega

/-- The later of two writes to a channel stands. -/
theorem setChan_setChan (s : State) (c : ChanIx) (x y : Channel) : (s.setChan c x).setChan c y = s.setChan c y := by
  simp [State.setChan]

/-! ### Channel commands that reconfigure and propagate -/

/-- What a configuration command leaves of a channel before it propagates. -/
structure SameOutputs (a b : Channel) : Prop where
  fire : b.fire = a.fire
  enabled : b.enabled = a.enabled
  mode : b.mode = a.mode
  pinsel : b.pinsel = a.pinsel
  pend : b.pend = a.pend
  bal : b.bal = a.bal

/-- A configuration write leaves the channel stale and nothing else. -/
theorem InvBut.setChan {S : ChanIx → Prop} {s : State} {c : ChanIx} {x : Channel} (hs : InvBut S s) (hc : c.val < s.params.nCh)
    (hx : SameOutputs (s.chan c) x) (hb : BoundsLegal x) (hoff : x.online = false → (s.chan c).online = false)
    (hlut : x.lutEn = true → s.semi (s.chan c).mode ≠ 0) : InvBut (fun k => S k ∨ k = c) (s.setChan c x) := by
  have same : ∀ k, SameOutputs (s.chan k) ((s.setChan c x).chan k) := fun k => by
    by_cases hk : k = c
    · subst hk; simpa using hx
    · rw [chan_setChan_ne _ _ hk]; exact ⟨rfl, rfl, rfl, rfl, rfl, rfl⟩
  have hreg : SameRegistration s (s.setChan c x) := ⟨rfl, fun k => ⟨(same k).enabled, (same k).mode, (same k).pinsel⟩⟩
  have hpend : ∀ k y, Pending (s.setChan c x) k y ↔ Pending s k y := fun k y => by
    simp only [Pending, hreg.inUnit, (same k).pend]
  have own : ChannelSafe (s.setChan c x) c := by
    obtain ⟨-, zero, -, waits, low, bal⟩ := hs.safe.channels c hc
    have hchanPin : (s.setChan c x).chanPin c = s.chanPin c := by simp [State.chanPin, hx.pinsel]
    refine ⟨by simpa using hb, ?_, ?_, ?_, ?_, ?_⟩ <;>
      simp only [hchanPin, chan_setChan_same, semi_setChan, hx.fire, hx.enabled, hx.mode, hx.pend, hx.bal]
    · exact fun h => zero (hoff h)
    · exact hlut
    · exact waits
    · exact low
    · exact bal
  refine ⟨hs.safe.of_local hreg (fun k hk => chan_setChan_ne _ _ hk) hc (by simp) (by simp) (fun q hq => .inl hq) hs.safe.reserved own,
    alarmLeast_congr hs.least hpend rfl rfl, hs.ahead.congr (fun k y => (hpend k y).1) rfl, fun k hk hS => ?_⟩
  obtain ⟨hSk, hkc⟩ := not_or.1 hS
  rw [chan_setChan_ne _ _ hkc]
  exact (hs.derived k hk hSk).frame rfl (by simp)

/-- A configuration command's write, propagated by `set_duty` (R111). -/
theorem InvBut.reconfigure {s : State} {c : ChanIx} {x : Channel} (hs : WholeInv s) (hc : c.val < s.params.nCh)
    (hx : SameOutputs (s.chan c) x) (hb : BoundsLegal x) (hoff : x.online = false → (s.chan c).online = false)
    (hlut : x.lutEn = true → s.semi (s.chan c).mode ≠ 0) : WholeInv (reapply c (s.setChan c x)) :=
  ((hs.setChan hc hx hb hoff hlut).setDuty hc _).mono fun _ _ ⟨h, hne⟩ => h.elim id hne

/-- `SETONLINE c, 0` keeps the invariants. -/
theorem InvBut.offline {s : State} {c : ChanIx} (hs : WholeInv s) (hc : c.val < s.params.nCh) :
    WholeInv (applyOff c (s.setChan c (s.chan c).offline)) := by
  have hr := rewritten_offline s c
  have hcfg := applyOff_sameConfiguration (s.setChan c (s.chan c).offline) c
  rw [chan_setChan_same] at hcfg
  have safe := hs.safe.channels c hc
  obtain ⟨hle, hmap, -, -⟩ := hs.derived c hc not_false
  have hd : Derived (applyOff c (s.setChan c (s.chan c).offline)) (s.chan c).offline :=
    .of_isFire safe.bounds hle hmap ⟨fun _ => rfl, by simp [Channel.offline], by simp [Channel.offline]⟩
  refine (hr.inv hs hc ?_ ?_ (hd.of_sameConfiguration hcfg)).mono fun _ _ ⟨h, _⟩ => h
  · obtain ⟨-, hlim, hmin, hmax, -⟩ := hcfg
    rw [BoundsLegal, ← hlim, ← hmin, ← hmax]; exact safe.bounds
  · obtain ⟨-, -, -, -, -, -, -, -, hlut, -⟩ := hcfg
    rw [← hlut]; exact safe.lut_needs_semi

/-- The remap bounds and the limit that a clamped operand gives (R114 to R116). -/
theorem boundsLegal_limit {ch : Channel} (h : BoundsLegal ch) (v : Int) :
    BoundsLegal { ch with limit := clampDuty v 0 0x10000 } := by
  have := clampDuty_toNat (v := v) (lo := 0) (hi := 0x10000) (by omega) (by omega) (by omega)
  exact ⟨by simp only; omega, h.2⟩

theorem boundsLegal_dutyMin {ch : Channel} (h : BoundsLegal ch) (v : Int) :
    BoundsLegal { ch with dutyMin := clampDuty v 0 ch.dutyMax.toNat } := by
  obtain ⟨hlim, -, hmax⟩ := h
  have := clampDuty_toNat (v := v) (lo := 0) (hi := ch.dutyMax.toNat) (by omega) (by omega) (by omega)
  exact ⟨hlim, by simp only; omega, hmax⟩

theorem boundsLegal_dutyMax {ch : Channel} (h : BoundsLegal ch) (v : Int) :
    BoundsLegal { ch with dutyMax := clampDuty v ch.dutyMin.toNat 0x10000 } := by
  obtain ⟨hlim, hmin, hmax⟩ := h
  have := clampDuty_toNat (v := v) (lo := ch.dutyMin.toNat) (hi := 0x10000) (by omega) (by omega) (by omega)
  exact ⟨hlim, by simp only; omega, by simp only; omega⟩

/-! ### `BEGIN` -/

/-- The state of a successful `BEGIN` before its channel's duty is re-applied (R161). -/
def registered (c : ChanIx) (m : UnitId) (p : BitVec 8) (s : State) : State :=
  let s1 := s.setChan c { s.chan c with mode := m, pinsel := p, enabled := true }
  let s2 := (s1.setPin p false).setPend c none
  if s.run m then s2 else startUnit m s2

theorem register_eq (c : ChanIx) (m : UnitId) (p : BitVec 8) (s : State) : register c m p s = reapply c (registered c m p s) := rfl

/-- `start_unit(u)` writes the unit's counter and polarity only (R162). -/
theorem startUnit_frame (u : UnitId) (s : State) :
    (startUnit u s).params = s.params ∧ (startUnit u s).lut = s.lut ∧ (startUnit u s).chans = s.chans ∧
    (startUnit u s).pins = s.pins ∧ (startUnit u s).errFlags = s.errFlags ∧ (startUnit u s).inputs = s.inputs := by
  cases u <;> exact ⟨rfl, rfl, rfl, rfl, rfl, rfl⟩

theorem begun_registered (c : ChanIx) (m : UnitId) (p : BitVec 8) (s : State) : Begun s c m p (registered c m p s) := by
  have hrun := run_iff (s := s) (u := m)
  obtain ⟨fp, fl, fc, fpin, ff, fi⟩ := startUnit_frame m
    (((s.setChan c { s.chan c with mode := m, pinsel := p, enabled := true }).setPin p false).setPend c none)
  have hchan := chan_congr fc
  have hpin := pin_congr fp fpin
  unfold registered
  by_cases h : s.run m = true
  · simp only [h, if_true]
    have he := hrun.1 h
    refine ⟨by simp, fun k hk => by simp [hk], by simp [pin_setPin_low], fun q hq => by simp [pin_setPin_ne _ _ hq],
      fun _ => by simp, fun _ hn => absurd he hn, fun _ hn => absurd he hn, by simp⟩
  · simp only [h]
    have hn := hrun.not.1 h
    refine ⟨by simp [hchan], fun k hk => by simp [hchan, hk], by simp [hpin, pin_setPin_low],
      fun q hq => by simp [hpin, pin_setPin_ne _ _ hq], fun he => absurd he hn, ?_, ?_, by simp [fp, fl, ff, fi]⟩
    · rintro rfl -; simp [startUnit]
    · rintro rfl -; simp [startUnit]

section
variable {s b : State} {c : ChanIx} {m : UnitId} {p : BitVec 8} (h : Begun s c m p b)
include h

/-- The unit registers: only a unit that was stopped is written, and then its counter and polarity only. -/
theorem Begun.units :
    (b.upc = s.upc ∨ (m = .pc ∧ ¬ ∃ k, InUnit s m k) ∧ b.upc = { s.upc with count := 0 }) ∧
    (b.ucs = s.ucs ∨ (m = .cs ∧ ¬ ∃ k, InUnit s m k) ∧ b.ucs = { s.ucs with count := 0, pol := false }) := by
  by_cases hr : ∃ k, InUnit s m k
  · obtain ⟨hupc, hucs⟩ := h.running hr
    exact ⟨.inl hupc, .inl hucs⟩
  · cases hm : m
    · obtain ⟨hupc, hucs⟩ := h.start_pc hm hr
      exact ⟨.inr ⟨⟨rfl, hm ▸ hr⟩, hupc⟩, .inl hucs⟩
    · obtain ⟨hupc, hucs⟩ := h.start_cs hm hr
      exact ⟨.inl hupc, .inr ⟨⟨rfl, hm ▸ hr⟩, hucs⟩⟩

theorem Begun.semi (u : UnitId) : b.semi u = s.semi u := by
  obtain ⟨hupc | ⟨-, hupc⟩, hucs | ⟨-, hucs⟩⟩ := h.units <;> exact semi_congr (by rw [hupc]) (by rw [hucs]) u

/-- The counters of the other unit and of a unit that runs stay. -/
theorem Begun.count {u : UnitId} (hu : u = m → ∃ k, InUnit s m k) : b.count u = s.count u := by
  obtain ⟨hpc, hcs⟩ := h.units
  cases u
  · obtain hupc | ⟨⟨hm, hr⟩, -⟩ := hpc
    · rw [count_pc, hupc, count_pc]
    · exact absurd (hu hm.symm) hr
  · obtain hucs | ⟨⟨hm, hr⟩, -⟩ := hcs
    · rw [count_cs, hucs, count_cs]
    · exact absurd (hu hm.symm) hr

theorem Begun.alarm : b.upc.armed = s.upc.armed ∧ b.upc.alarm = s.upc.alarm := by
  obtain ⟨hupc | ⟨-, hupc⟩, -⟩ := h.units <;> rw [hupc] <;> exact ⟨rfl, rfl⟩

theorem Begun.idle (hi : s.ucs.semi = 0 → s.ucs.count = 0) (hz : b.ucs.semi = 0) : b.ucs.count = 0 := by
  obtain ⟨-, hucs | ⟨-, hucs⟩⟩ := h.units <;> rw [hucs] at hz ⊢
  exact hi hz

theorem Begun.pin_le (q : BitVec 8) (hq : b.pin q = true) : s.pin q = true := by
  by_cases he : q = p
  · subst he; simp [h.pin_low] at hq
  · rwa [h.other_pins q he] at hq

/-- The channels of each unit are as before, and the new one. -/
theorem Begun.inUnit (hc : c.val < s.params.nCh) (u : UnitId) (k : ChanIx) :
    InUnit b u k ↔ (k = c ∧ u = m) ∨ (k ≠ c ∧ InUnit s u k) := by
  by_cases hk : k = c
  · subst hk
    rw [InUnit, h.registered, h.frame.1]
    simpa [hc] using eq_comm
  · simp [InUnit, h.others k hk, h.frame.1, hk]

/-- A newly registered channel does not wait. -/
theorem Begun.pending (hc : c.val < s.params.nCh) (hdis : (s.chan c).enabled = false) (k : ChanIx) (x : Ticks) :
    Pending b k x ↔ Pending s k x := by
  by_cases hk : k = c
  · subst hk; simp [Pending, h.registered, hdis]
  · simp only [Pending, h.inUnit hc, h.others k hk, hk, false_and, false_or, ne_eq, not_false_iff, true_and]

theorem Begun.enabled_cases (k : ChanIx) (he : (b.chan k).enabled = true) : k = c ∧ (b.chan k).pinsel = p ∨
    k ≠ c ∧ (s.chan k).enabled = true ∧ (b.chan k).pinsel = (s.chan k).pinsel := by
  by_cases hk : k = c
  · subst hk; exact .inl ⟨rfl, by rw [h.registered]⟩
  · rw [h.others k hk] at he ⊢; exact .inr ⟨hk, he, rfl⟩

theorem Begun.pinsSeparate (hs : PinsSeparate s) (hp : p.toNat < s.params.nPins)
    (hfree : ∀ k : ChanIx, k.val < s.params.nCh → k ≠ c → (s.chan k).enabled = true → (s.chan k).pinsel ≠ p) : PinsSeparate b := by
  obtain ⟨hparams, -⟩ := h.frame
  refine ⟨fun k hk he => ?_, fun k l hk hl hke hle hkl => ?_⟩ <;> rw [hparams] at *
  · obtain ⟨-, hpk⟩ | ⟨-, hek, hpk⟩ := h.enabled_cases k he <;> rw [hpk]
    · exact hp
    · exact hs.inRange k hk hek
  · obtain ⟨hkc, hpk⟩ | ⟨hkc, hek, hpk⟩ := h.enabled_cases k hke <;>
      obtain ⟨hlc, hpl⟩ | ⟨hlc, hel, hpl⟩ := h.enabled_cases l hle <;> rw [hpk, hpl] at hkl
    · exact hkc.trans hlc.symm
    · exact absurd hkl.symm (hfree l hl hlc hel)
    · exact absurd hkl (hfree k hk hkc hek)
    · exact hs.distinct k l hk hl hek hel hkl

/-- The new channel is safe: low, not waiting, and with a known semi-period where it uses the table. -/
theorem Begun.channelSafe (hs : ChannelSafe s c) (hlut : (s.chan c).lutEn = true → s.semi m ≠ 0) : ChannelSafe b c := by
  obtain ⟨bounds, zero, -, -, -, bal⟩ := hs
  have low : b.chanPin c = false := by rw [State.chanPin, h.registered]; exact h.pin_low
  refine ⟨?_, ?_, ?_, ?_, fun _ _ => low, ?_⟩ <;> rw [h.registered]
  · exact bounds
  · exact zero
  · rw [h.semi]; exact hlut
  · exact fun h => absurd rfl h
  · exact bal

/-- A channel registered on a free existing pin, with a known semi-period where it uses the table, leaves only its own derived
registers stale. -/
theorem Begun.inv (hs : WholeInv s) (hc : c.val < s.params.nCh) (hdis : (s.chan c).enabled = false) (hp : p.toNat < s.params.nPins)
    (hfree : ∀ k : ChanIx, k.val < s.params.nCh → k ≠ c → (s.chan k).enabled = true → (s.chan k).pinsel ≠ p)
    (hlut : (s.chan c).lutEn = true → s.semi m ≠ 0) : InvBut (fun k => k = c) b := by
  obtain ⟨hparams, hl, hflags, -⟩ := h.frame
  have hne {k : ChanIx} (he : (s.chan k).enabled = true) : k ≠ c := fun hkc => by simp [← hkc, he] at hdis
  have hpend := h.pending hc hdis
  refine ⟨⟨fun k hk => ?_, h.pinsSeparate hs.safe.pinsSeparate hp hfree, fun q hq => ?_, fun u hu => ?_, h.idle hs.safe.idle,
    hflags ▸ hs.safe.reserved⟩, alarmLeast_congr hs.least hpend h.alarm.1 h.alarm.2, fun k x hkx => ?_, fun k hk hkc => ?_⟩
  · have safe := hs.safe.channels k (hparams ▸ hk)
    by_cases hkc : k = c
    · subst hkc; exact h.channelSafe safe hlut
    · refine safe.congr (h.others k hkc) (by rw [h.semi]; exact safe.lut_needs_semi) fun _ ht => ?_
      rw [State.chanPin, h.others k hkc] at ht
      exact h.pin_le _ ht
  · obtain ⟨k, hk, he, hpk⟩ := hs.safe.pin_owned q (h.pin_le q hq)
    have hk' := h.others k (hne he)
    exact ⟨k, by rw [hparams]; exact hk, by rw [hk']; exact he, by rw [hk']; exact hpk⟩
  · have hum : u ≠ m := fun hum => hu ⟨c, (h.inUnit hc u c).2 (.inl ⟨rfl, hum⟩)⟩
    rw [h.count fun h => absurd h hum]
    exact hs.safe.stopped u fun ⟨k, hk⟩ => hu ⟨k, (h.inUnit hc u k).2 (.inr ⟨hne hk.2.1, hk⟩)⟩
  · have hks := (hpend k x).1 hkx
    have hcount : b.count .pc = s.count .pc := h.count fun hm => ⟨k, hm ▸ hks.1⟩
    rw [count_pc, count_pc] at hcount
    rw [hcount]; exact hs.ahead k x hks
  · rw [h.others k hkc]
    exact (hs.derived k (hparams ▸ hk) not_false).frame hl (h.semi _)

end

/-! ### `END` -/

/-- The channel's part of `END`: pin low, nothing pending, not registered (R163). -/
def released (c : ChanIx) (s : State) : State :=
  let s1 := (s.driveChan c false).setPend c none
  s1.setChan c { s1.chan c with enabled := false }

/-- The unit's part of `END`: it stops with its last channel (R163, R164). -/
def stopIfIdle (u : UnitId) (s : State) : State := if s.run u then s else stopUnit u s

theorem unregister_eq (c : ChanIx) (s : State) : unregister c s =
    if (s.chan c).mode = .pc then rearm (stopIfIdle (s.chan c).mode (released c s)) else stopIfIdle (s.chan c).mode (released c s) := rfl

theorem stopIfIdle_frame (u : UnitId) (s : State) :
    (stopIfIdle u s).params = s.params ∧ (stopIfIdle u s).lut = s.lut ∧ (stopIfIdle u s).chans = s.chans ∧
    (stopIfIdle u s).pins = s.pins ∧ (stopIfIdle u s).errFlags = s.errFlags ∧ (stopIfIdle u s).inputs = s.inputs := by
  unfold stopIfIdle stopUnit
  split <;> simp

theorem stopIfIdle_running {u : UnitId} {s : State} (h : ∃ c, InUnit s u c) : stopIfIdle u s = s := if_pos (run_iff.2 h)

theorem stopIfIdle_stopped {u : UnitId} {s : State} (h : ¬ ∃ c, InUnit s u c) : stopIfIdle u s = s.setCount u 0 :=
  if_neg (mt run_iff.1 h)

theorem stopIfIdle_pc (s : State) : ∃ n, stopIfIdle .pc s = { s with upc := { s.upc with count := n } } := by
  by_cases h : ∃ c, InUnit s .pc c
  · exact ⟨s.upc.count, stopIfIdle_running h⟩
  · exact ⟨_, stopIfIdle_stopped h⟩

theorem stopIfIdle_cs (s : State) : ∃ n, stopIfIdle .cs s = { s with ucs := { s.ucs with count := n } } := by
  by_cases h : ∃ c, InUnit s .cs c
  · exact ⟨s.ucs.count, stopIfIdle_running h⟩
  · exact ⟨_, stopIfIdle_stopped h⟩

theorem released_upc (c : ChanIx) (s : State) : (released c s).upc = s.upc := by simp [released]

theorem released_ucs (c : ChanIx) (s : State) : (released c s).ucs = s.ucs := by simp [released]

theorem released_chan (c k : ChanIx) (s : State) :
    (released c s).chan k = if k = c then { s.chan c with enabled := false, pend := none } else s.chan k := by
  by_cases hk : k = c
  · subst hk; simp [released]
  · simp [released, hk]

theorem released_inUnit (c k : ChanIx) (u : UnitId) (s : State) : InUnit (released c s) u k ↔ k ≠ c ∧ InUnit s u k := by
  have hp : (released c s).params = s.params := by simp [released]
  rw [InUnit, released_chan, hp]
  by_cases hk : k = c <;> simp [hk]

/-- `END`'s effect on its channel and the pins, whatever its unit. -/
theorem unregister_frame (c : ChanIx) (s : State) :
    (unregister c s).params = (released c s).params ∧ (unregister c s).lut = (released c s).lut ∧
    (unregister c s).chans = (released c s).chans ∧ (unregister c s).pins = (released c s).pins ∧
    (unregister c s).errFlags = (released c s).errFlags ∧ (unregister c s).inputs = (released c s).inputs := by
  rw [unregister_eq]
  have := stopIfIdle_frame (s.chan c).mode (released c s)
  split <;> simpa using this

theorem unregister_count (c : ChanIx) (s : State) :
    (unregister c s).count (s.chan c).mode = (stopIfIdle (s.chan c).mode (released c s)).count (s.chan c).mode := by
  rw [unregister_eq]
  cases (s.chan c).mode <;> simp

/-- What `END` does to a registered channel is what R163 and R164 say. -/
theorem unregister_ended (c : ChanIx) (s : State) : Ended s c (unregister c s) := by
  obtain ⟨fparams, flut, fchans, fpins, fflags, finputs⟩ := unregister_frame c s
  have hchan := chan_congr fchans
  have hpin := pin_congr fparams fpins
  have hunit : (∃ k, InUnit (released c s) (s.chan c).mode k) ↔ ∃ k, k ≠ c ∧ InUnit s (s.chan c).mode k := by
    simp only [released_inUnit]
  refine ⟨by simp [hchan, released_chan], fun k hk => by simp [hchan, released_chan, hk], ?_, fun q hq => ?_, fun hl => ?_,
    fun hl => ?_, fun hm => ?_, fun hm => ?_, by simp [fparams, flut, fflags, finputs, released]⟩
  · rw [hpin]; exact pin_setPin_low s _
  · rw [hpin]; exact pin_setPin_ne s _ hq
  · rw [unregister_count, stopIfIdle_stopped (hunit.not.2 hl)]
    cases (s.chan c).mode <;> rfl
  · rw [unregister_count, stopIfIdle_running (hunit.2 hl)]
    simp [released]
  · obtain ⟨n, hn⟩ := stopIfIdle_pc (released c s)
    obtain ⟨hleast, hkeep, hsemi, -⟩ := rearm_rearmed (stopIfIdle .pc (released c s))
    have ht : unregister c s = rearm (stopIfIdle .pc (released c s)) := by rw [unregister_eq, hm, if_pos rfl]
    rw [ht]
    refine ⟨hleast, fun ha => (hkeep ha).trans ?_, hsemi.trans ?_, ?_⟩ <;> simp [hn, released_upc, released_ucs]
  · obtain ⟨n, hn⟩ := stopIfIdle_cs (released c s)
    have ht : unregister c s = stopIfIdle .cs (released c s) := by rw [unregister_eq, hm, if_neg (by simp)]
    rw [ht, hn]
    simp [released_upc, released_ucs]

section
variable {s t : State} {c : ChanIx} (h : Ended s c t)
include h

theorem Ended.semi (u : UnitId) : t.semi u = s.semi u := by
  cases hm : (s.chan c).mode
  · obtain ⟨-, -, hsemi, hucs⟩ := h.pc_unit hm
    exact semi_congr hsemi (by rw [hucs]) u
  · obtain ⟨hupc, hsemi, -⟩ := h.cs_unit hm
    exact semi_congr (by rw [hupc]) hsemi u

/-- The other unit's counter stays. -/
theorem Ended.count_other {u : UnitId} (hu : u ≠ (s.chan c).mode) : t.count u = s.count u := by
  cases hm : (s.chan c).mode <;> cases u
  · exact absurd hm.symm hu
  · obtain ⟨-, -, -, hucs⟩ := h.pc_unit hm
    rw [count_cs, hucs, count_cs]
  · obtain ⟨hupc, -⟩ := h.cs_unit hm
    rw [count_pc, hupc, count_pc]
  · exact absurd hm.symm hu

/-- A counter stays or is zeroed. -/
theorem Ended.count (u : UnitId) : t.count u = s.count u ∨ t.count u = 0 := by
  by_cases hu : u = (s.chan c).mode
  · subst hu
    by_cases hl : ∃ k, k ≠ c ∧ InUnit s (s.chan c).mode k
    · exact .inl (h.not_last hl)
    · exact .inr (h.last hl)
  · exact .inl (h.count_other hu)

theorem Ended.pin_le (q : BitVec 8) (hq : t.pin q = true) : s.pin q = true ∧ q ≠ (s.chan c).pinsel := by
  have hne : q ≠ (s.chan c).pinsel := fun he => by subst he; simp [h.pin_low] at hq
  exact ⟨by rwa [h.other_pins q hne] at hq, hne⟩

theorem Ended.enabled_iff (k : ChanIx) : (t.chan k).enabled = true ↔ k ≠ c ∧ (s.chan k).enabled = true := by
  by_cases hk : k = c
  · subst hk; simp [h.released]
  · simp [h.others k hk, hk]

theorem Ended.inUnit (u : UnitId) (k : ChanIx) : InUnit t u k ↔ k ≠ c ∧ InUnit s u k := by
  by_cases hk : k = c
  · subst hk; simp [InUnit, h.released]
  · simp [InUnit, h.others k hk, h.frame.1, hk]

theorem Ended.pending (k : ChanIx) (x : Ticks) : Pending t k x ↔ k ≠ c ∧ Pending s k x := by
  by_cases hk : k = c
  · subst hk; simp [Pending, h.released]
  · simp only [Pending, h.inUnit, h.others k hk, and_assoc]

theorem Ended.pinsel (k : ChanIx) : (t.chan k).pinsel = (s.chan k).pinsel := by
  by_cases hk : k = c
  · subst hk; rw [h.released]
  · rw [h.others k hk]

theorem Ended.pinsSeparate (hs : PinsSeparate s) : PinsSeparate t := by
  obtain ⟨hparams, -⟩ := h.frame
  have en {k : ChanIx} (he : (t.chan k).enabled = true) : (s.chan k).enabled = true := ((h.enabled_iff k).1 he).2
  refine ⟨fun k hk he => ?_, fun k l hk hl hke hle hkl => ?_⟩
  · rw [h.pinsel, hparams]; exact hs.inRange k (hparams ▸ hk) (en he)
  · rw [h.pinsel, h.pinsel] at hkl
    exact hs.distinct k l (hparams ▸ hk) (hparams ▸ hl) (en hke) (en hle) hkl

/-- The released channel neither waits nor owns a pin. -/
theorem Ended.channelSafe (hs : ChannelSafe s c) : ChannelSafe t c := by
  obtain ⟨bounds, zero, backed, -, -, bal⟩ := hs
  refine ⟨?_, ?_, ?_, ?_, ?_, ?_⟩ <;> rw [h.released]
  · exact bounds
  · exact zero
  · rw [h.semi]; exact backed
  · exact fun h => absurd rfl h
  · exact fun h => absurd h Bool.false_ne_true
  · exact bal

/-- The alarm is recomputed for a PC channel; a CS channel did not wait. -/
theorem Ended.alarmLeast (hl : AlarmLeast s) : AlarmLeast t := by
  cases hm : (s.chan c).mode
  · exact (h.pc_unit hm).1
  · obtain ⟨hupc, -⟩ := h.cs_unit hm
    have hne (k : ChanIx) (x : Ticks) (hk : Pending s k x) : k ≠ c := fun hkc => by simp [← hkc, hk.1.2.2] at hm
    exact alarmLeast_congr hl (fun k x => (h.pending k x).trans ⟨And.right, fun hk => ⟨hne k x hk, hk⟩⟩) (by rw [hupc]) (by rw [hupc])

theorem Ended.inv (hs : WholeInv s) : WholeInv t := by
  obtain ⟨hparams, hl, hflags, -⟩ := h.frame
  refine ⟨⟨fun k hk => ?_, h.pinsSeparate hs.safe.pinsSeparate, fun q hq => ?_, fun u hu => ?_, fun hz => ?_,
    hflags ▸ hs.safe.reserved⟩, h.alarmLeast hs.least, fun k x hkx => ?_, fun k hk _ => ?_⟩
  · have safe := hs.safe.channels k (hparams ▸ hk)
    by_cases hkc : k = c
    · subst hkc; exact h.channelSafe safe
    · refine safe.congr (h.others k hkc) (by rw [h.semi]; exact safe.lut_needs_semi) fun _ ht => ?_
      rw [State.chanPin, h.pinsel] at ht
      exact (h.pin_le _ ht).1
  · obtain ⟨hsq, hne⟩ := h.pin_le q hq
    obtain ⟨k, hk, he, hp⟩ := hs.safe.pin_owned q hsq
    have hkc : k ≠ c := fun hkc => hne (by rw [← hp, hkc])
    exact ⟨k, hparams ▸ hk, (h.enabled_iff k).2 ⟨hkc, he⟩, (h.pinsel k).trans hp⟩
  · simp only [h.inUnit] at hu
    by_cases hm : u = (s.chan c).mode
    · subst hm; exact h.last hu
    · rw [h.count_other hm]
      exact hs.safe.stopped u fun ⟨k, hk⟩ => hu ⟨k, fun hkc => hm (hkc ▸ hk.2.2.symm), hk⟩
  · obtain hn | hn := h.count .cs <;> rw [count_cs] at hn
    · rw [hn]; exact hs.safe.idle (by rw [← semi_cs, ← h.semi]; exact hz)
    · exact hn
  · obtain ⟨hkc, hk⟩ := (h.pending k x).1 hkx
    have hcount : t.count .pc = s.count .pc := by
      by_cases hm : UnitId.pc = (s.chan c).mode
      · rw [hm]; exact h.not_last ⟨k, hkc, hm ▸ hk.1⟩
      · exact h.count_other hm
    rw [count_pc, count_pc] at hcount
    rw [hcount]; exact hs.ahead k x hk
  · have hd := (hs.derived k (hparams ▸ hk) not_false).frame hl (h.semi _)
    by_cases hkc : k = c
    · subst hkc; rw [h.released]; exact ⟨hd.duty_le_limit, hd.mapped, hd.fire, hd.fire_le_one⟩
    · rw [h.others k hkc]; exact hd

end

/-! ### `SETSEMI` -/

/-- The unit registers an accepted `SETSEMI` writes, before it re-applies the unit's channels (R149, R205). -/
def semiWritten (u : UnitId) (p : Ticks) (s : State) : State :=
  if u = .cs ∧ p = 0 then (s.setSemi u p).setCount .cs 0 else s.setSemi u p

theorem storeSemi_eq (u : UnitId) (p : Ticks) (s : State) :
    storeSemi u p s = forChans ((semiWritten u p s).modeChans u) reapply (semiWritten u p s) := rfl

theorem semiWritten_sameFile (u : UnitId) (p : Ticks) (s : State) : SameFile s (semiWritten u p s) := by
  unfold semiWritten
  split <;> exact ⟨by simp, by simp, by simp⟩

theorem semiWritten_frame (u : UnitId) (p : Ticks) (s : State) :
    (semiWritten u p s).lut = s.lut ∧ (semiWritten u p s).errFlags = s.errFlags ∧
    (semiWritten u p s).upc.count = s.upc.count ∧ (semiWritten u p s).upc.armed = s.upc.armed ∧
    (semiWritten u p s).upc.alarm = s.upc.alarm := by
  unfold semiWritten
  split <;> cases u <;> simp

theorem semiWritten_semi (u v : UnitId) (p : Ticks) (s : State) : (semiWritten u p s).semi v = if v = u then p else s.semi v := by
  unfold semiWritten
  split <;> cases u <;> cases v <;> simp

/-- The CS counter is zeroed when its semi-period is cleared, and stays otherwise (R205). -/
theorem semiWritten_ucs_count (u : UnitId) (p : Ticks) (s : State) :
    (semiWritten u p s).ucs.count = if u = .cs ∧ p = 0 then 0 else s.ucs.count := by
  unfold semiWritten
  split
  · simp
  · cases u <;> simp

/-- `SETSEMI` is refused exactly when it would take the semi-period from a channel that uses the table (R149). -/
theorem lutInUse_iff {u : UnitId} {s : State} :
    lutInUse u s = true ↔ ∃ c : ChanIx, c.val < s.params.nCh ∧ (s.chan c).mode = u ∧ (s.chan c).lutEn = true := by
  simp [lutInUse, mem_modeChans, and_assoc]

/-- The new semi-period leaves the derived registers of the unit's channels stale and nothing else. -/
theorem InvBut.semiWritten {u : UnitId} {p : Ticks} {s : State} (hs : WholeInv s)
    (hok : p = 0 → lutInUse u s = false) : InvBut (fun k => (s.chan k).mode = u) (semiWritten u p s) := by
  have hf := semiWritten_sameFile u p s
  obtain ⟨hl, hflags, hcount, harmed, halarm⟩ := semiWritten_frame u p s
  have backed (c : ChanIx) (hc : c.val < s.params.nCh) (hlut : (s.chan c).lutEn = true) :
      (Machine.semiWritten u p s).semi (s.chan c).mode ≠ 0 := by
    rw [semiWritten_semi]
    split
    · next hm => exact fun hp => absurd (lutInUse_iff.2 ⟨c, hc, hm, hlut⟩) (by simp [hok hp])
    · exact (hs.safe.channels c hc).lut_needs_semi hlut
  have csZero (h : s.ucs.count = 0) : (Machine.semiWritten u p s).ucs.count = 0 := by rw [semiWritten_ucs_count, h]; split <;> rfl
  refine ⟨hs.safe.of_sameFile hf backed (fun v hv => ?_) (fun hz => ?_) (hflags ▸ hs.safe.reserved),
    alarmLeast_congr hs.least hf.pending harmed halarm, hs.ahead.congr (fun c x => (hf.pending c x).1) hcount, fun c hc hm => ?_⟩
  · have := hs.safe.stopped v hv
    cases v
    · exact hcount.trans this
    · exact csZero this
  · rw [← semi_cs, semiWritten_semi] at hz
    split at hz
    · next hu => rw [semiWritten_ucs_count, if_pos ⟨hu.symm, hz⟩]
    · exact csZero (hs.safe.idle hz)
  · rw [hf.chans]
    exact (hs.derived c (hf.params ▸ hc) not_false).frame hl (by rw [semiWritten_semi, if_neg hm])

/-- Re-applying the stale channels one after the other makes the invariants whole. -/
theorem InvBut.reapplyAll {l : List ChanIx} {s : State} (hs : InvBut (· ∈ l) s) (hl : ∀ c ∈ l, c.val < s.params.nCh) :
    WholeInv (forChans l reapply s) := by
  induction l generalizing s with
  | nil => exact hs.mono fun c _ => by simp
  | cons a l ih =>
    have ha := hl a (by simp)
    obtain ⟨hd, -⟩ := setDuty_dutySet (s.chan a).duty.toNat (hs.safe.channels a ha).bounds
    refine ih ((hs.setDuty ha _).mono fun c _ ⟨hc, hne⟩ => (List.mem_cons.1 hc).resolve_left hne) fun c hc => ?_
    rw [show (reapply a s).params = s.params from hd.frame.1]
    exact hl c (by simp [hc])

theorem InvBut.storeSemi {u : UnitId} {p : Ticks} {s : State} (hs : WholeInv s) (hok : p = 0 → lutInUse u s = false) :
    WholeInv (storeSemi u p s) := by
  rw [storeSemi_eq]
  refine ((hs.semiWritten hok).mono fun c hc hm => ?_).reapplyAll fun c hc => (mem_modeChans.1 hc).1
  exact mem_modeChans.2 ⟨hc, by rw [(semiWritten_sameFile u p s).chans]; exact hm⟩

/-! ### Every command -/

/-- A channel command keeps the invariants if its body does on an existing channel. -/
theorem onChannel_inv {c : ChanIx} {s t : State} {body : State → State} (hs : WholeInv s)
    (hbody : c.val < s.params.nCh → WholeInv (body s)) (h : onChannel c s body = .next t) :
    WholeInv t := by
  obtain rfl : (if s.hasChan c then body s else s.raise .illegal) = t := by simpa [onChannel] using h
  split
  · next hc => exact hbody (by simpa using hc)
  · exact hs.raise _

/-- The second test of `BEGIN` (R161). -/
theorem pinOwned_eq_false {c : ChanIx} {p : BitVec 8} {s : State} (h : pinOwned c p s = false) (k : ChanIx)
    (hk : k.val < s.params.nCh) (hkc : k ≠ c) (he : (s.chan k).enabled = true) : (s.chan k).pinsel ≠ p := by
  intro hp
  have : pinOwned c p s = true := by
    simp only [pinOwned, List.any_eq_true]
    exact ⟨k, mem_allChans k, by simp [hk, hkc, he, hp]⟩
  simp [this] at h

section
variable {s t : State} (hs : WholeInv s)
include hs

theorem execSetDuty_inv {c : ChanIx} {v : BitVec 24} (h : execSetDuty c v s = .next t) : WholeInv t :=
  onChannel_inv hs (fun hc => ((hs.setDuty hc _).mono fun _ _ ⟨h, _⟩ => h).respond _ _) h

/-- `SETLIMIT`, `SETMIN` and `SETMAX` write legal bounds and propagate. -/
theorem setBounds_inv {c : ChanIx} {f : Channel → Channel}
    (hf : ∀ ch, BoundsLegal ch → SameOutputs ch (f ch) ∧ (f ch).online = ch.online ∧ (f ch).lutEn = ch.lutEn ∧ BoundsLegal (f ch))
    (h : onChannel c s (fun s => (reapply c (s.setChan c (f (s.chan c)))).respond false 1) = .next t) :
    WholeInv t :=
  onChannel_inv hs (fun hc => by
    have safe := hs.safe.channels c hc
    obtain ⟨hout, honline, hlut, hb⟩ := hf _ safe.bounds
    exact (hs.reconfigure hc hout hb honline.symm.trans (by rw [hlut]; exact safe.lut_needs_semi)).respond _ _) h

theorem execSetLimit_inv {c : ChanIx} {v : BitVec 24} (h : execSetLimit c v s = .next t) : WholeInv t :=
  setBounds_inv hs (f := fun ch => { ch with limit := clampDuty (operandD v) 0 0x10000 })
    (fun _ hb => ⟨⟨rfl, rfl, rfl, rfl, rfl, rfl⟩, rfl, rfl, boundsLegal_limit hb _⟩) h

theorem execSetMin_inv {c : ChanIx} {v : BitVec 24} (h : execSetMin c v s = .next t) : WholeInv t :=
  setBounds_inv hs (f := fun ch => { ch with dutyMin := clampDuty (operandD v) 0 ch.dutyMax.toNat })
    (fun _ hb => ⟨⟨rfl, rfl, rfl, rfl, rfl, rfl⟩, rfl, rfl, boundsLegal_dutyMin hb _⟩) h

theorem execSetMax_inv {c : ChanIx} {v : BitVec 24} (h : execSetMax c v s = .next t) : WholeInv t :=
  setBounds_inv hs (f := fun ch => { ch with dutyMax := clampDuty (operandD v) ch.dutyMin.toNat 0x10000 })
    (fun _ hb => ⟨⟨rfl, rfl, rfl, rfl, rfl, rfl⟩, rfl, rfl, boundsLegal_dutyMax hb _⟩) h

theorem execSetOnline_inv {c : ChanIx} {b : Bool} (h : execSetOnline c b s = .next t) : WholeInv t := by
  refine onChannel_inv hs (fun hc => InvBut.respond ?_ _ _) h
  have safe := hs.safe.channels c hc
  cases b
  · have := hs.offline hc
    simpa only [Bool.false_eq_true, if_false, chan_setChan_same, setChan_setChan, Channel.offline] using this
  · exact hs.reconfigure (x := { s.chan c with online := true }) hc ⟨rfl, rfl, rfl, rfl, rfl, rfl⟩ safe.bounds
      (fun h => absurd h.symm Bool.false_ne_true) safe.lut_needs_semi

theorem execSetLut_inv {c : ChanIx} {b : Bool} (h : execSetLut c b s = .next t) : WholeInv t := by
  refine onChannel_inv hs (fun hc => ?_) h
  split
  · exact hs.raise _
  · next hok =>
    have backed : b = true → s.semi (s.chan c).mode ≠ 0 := by simpa using hok
    exact (hs.reconfigure (x := { s.chan c with lutEn := b }) hc ⟨rfl, rfl, rfl, rfl, rfl, rfl⟩ (hs.safe.channels c hc).bounds id backed).respond _ _

theorem execBegin_inv {c : ChanIx} {m : UnitId} {p : BitVec 8} (h : execBegin c m p s = .next t) : WholeInv t := by
  refine onChannel_inv hs (fun hc => ?_) h
  split
  · exact hs.respond _ _
  split
  · exact hs.raise _
  split
  · exact hs.raise _
  next hdis hpin hlut =>
    simp only [Bool.or_eq_true, decide_eq_true_eq, not_or, Nat.not_le, Bool.not_eq_true] at hpin
    obtain ⟨hrange, hfree⟩ := hpin
    have hb := begun_registered c m p s
    have hinv := hb.inv hs hc (by simpa using hdis) hrange (pinOwned_eq_false hfree) (by simpa using hlut)
    rw [register_eq]
    exact ((hinv.setDuty (by rw [hb.frame.1]; exact hc) _).mono fun _ _ ⟨h, hne⟩ => hne h).respond _ _

theorem execEnd_inv {c : ChanIx} (h : execEnd c s = .next t) : WholeInv t := by
  refine onChannel_inv hs (fun _ => InvBut.respond ?_ _ _) h
  split
  · exact (unregister_ended c s).inv hs
  · exact hs

theorem execSetSemi_inv {u : UnitId} {p : Ticks} (h : execSetSemi u p s = .next t) : WholeInv t := by
  obtain rfl : (if decide (p = 0) && lutInUse u s then s.raise .configLut else (storeSemi u p s).respond false 1) = t := by
    simpa [execSetSemi] using h
  split
  · exact hs.raise _
  · next hok => exact (hs.storeSemi (by simpa using hok)).respond _ _

/-- Every command keeps the invariants: a read changes only the response, every other by its own lemma. -/
theorem exec_inv {i : Instr} (h : exec i s = .next t) : WholeInv t := by
  cases i with
  | nop => cases h; exact hs.respond _ _
  | beginChan c m p => exact execBegin_inv hs h
  | endChan c => exact execEnd_inv hs h
  | setDuty c v => exact execSetDuty_inv hs h
  | setLimit c v => exact execSetLimit_inv hs h
  | setMin c v => exact execSetMin_inv hs h
  | setMax c v => exact execSetMax_inv hs h
  | setOnline c b => exact execSetOnline_inv hs h
  | setLut c b => exact execSetLut_inv hs h
  | setSemi u p => exact execSetSemi_inv hs h
  | get c k => exact onChannel_inv (body := fun s => s.respond false (chanView s c k)) hs (fun _ => hs.respond _ _) h
  | getU u k => cases h; exact hs.respond _ _
  | getLut i => cases h; exact hs.respond _ _
  | clrErr m => cases h; exact (hs.clearFlags m).respond _ _

theorem command_inv {w : Word} (h : command w s = .next t) : WholeInv t := by
  unfold command at h
  split at h
  · exact exec_inv hs h
  · cases h; exact hs.raise _

end

/-! ### The events: one channel's outputs at a time -/

/-- An event's work on channel `c`: its outputs, its modulator registers and the flags. -/
structure OutputWritten (s : State) (c : ChanIx) (t : State) : Prop where
  params : t.params = s.params
  lut : t.lut = s.lut
  upc : t.upc = s.upc
  ucs : t.ucs = s.ucs
  others : OtherChans s t c
  config : SameConfiguration (s.chan c) (t.chan c)
  other_pins : OtherPins s t (s.chan c).pinsel

theorem outputWritten_refl (s : State) (c : ChanIx) : OutputWritten s c s :=
  ⟨rfl, rfl, rfl, rfl, fun _ _ => rfl, by simp [SameConfiguration], fun _ _ => rfl⟩

theorem outputWritten_driveChan (s : State) (c : ChanIx) (v : Bool) : OutputWritten s c (s.driveChan c v) :=
  ⟨by simp, by simp, by simp, by simp, fun k _ => by simp, by simp [SameConfiguration], fun _ hq => pin_setPin_ne s v hq⟩

theorem outputWritten_setFlag (s : State) (c : ChanIx) (e : ErrorCode) : OutputWritten s c (s.setFlag e) :=
  ⟨rfl, rfl, rfl, rfl, fun _ _ => rfl, by simp [SameConfiguration], fun _ _ => rfl⟩

theorem OutputWritten.setChan {s t : State} {c : ChanIx} (h : OutputWritten s c t) {x : Channel} (hx : SameConfiguration (s.chan c) x) :
    OutputWritten s c (t.setChan c x) :=
  ⟨h.params, h.lut, h.upc, h.ucs, fun k hk => by rw [chan_setChan_ne _ _ hk, h.others k hk], by simpa using hx, h.other_pins⟩

theorem OutputWritten.setPend {s t : State} {c : ChanIx} (h : OutputWritten s c t) (x : Option Ticks) :
    OutputWritten s c (t.setPend c x) := h.setChan h.config

/-- What an event keeps of a state while it walks the channels. -/
structure WalkFrame (s t : State) : Prop where
  params : t.params = s.params
  lut : t.lut = s.lut
  upc : t.upc = s.upc
  ucs : t.ucs = s.ucs
  config : ∀ c, SameConfiguration (s.chan c) (t.chan c)

theorem walkFrame_refl (s : State) : WalkFrame s s := ⟨rfl, rfl, rfl, rfl, fun _ => by simp [SameConfiguration]⟩

theorem WalkFrame.trans {s t u : State} (h : WalkFrame s t) (h' : WalkFrame t u) : WalkFrame s u := by
  refine ⟨h'.params.trans h.params, h'.lut.trans h.lut, h'.upc.trans h.upc, h'.ucs.trans h.ucs, fun c => ?_⟩
  have h1 := h.config c
  have h2 := h'.config c
  simp_all only [SameConfiguration, and_self]

theorem OutputWritten.walkFrame {s t : State} {c : ChanIx} (h : OutputWritten s c t) : WalkFrame s t := by
  refine ⟨h.params, h.lut, h.upc, h.ucs, fun k => ?_⟩
  by_cases hk : k = c
  · exact hk ▸ h.config
  · rw [h.others k hk]; simp [SameConfiguration]

section
variable {s t : State} (h : WalkFrame s t)
include h

theorem WalkFrame.sameRegistration : SameRegistration s t := ⟨h.params, fun c => by
  obtain ⟨-, -, -, -, -, -, hen, -, -, hmode, hpin⟩ := h.config c
  exact ⟨hen.symm, hmode.symm, hpin.symm⟩⟩

theorem WalkFrame.semi (u : UnitId) : t.semi u = s.semi u := semi_congr (by rw [h.upc]) (by rw [h.ucs]) u

theorem WalkFrame.derived (hd : ∀ c : ChanIx, c.val < s.params.nCh → Derived s (s.chan c)) (c : ChanIx) (hc : c.val < t.params.nCh) :
    Derived t (t.chan c) :=
  ((hd c (h.params ▸ hc)).frame h.lut (h.semi _)).of_sameConfiguration (h.config c)

end

/-- A loop whose bodies each write one channel's outputs keeps the frame. -/
theorem walkFrame_forChans {body : ChanIx → State → State} (hbody : ∀ c t, OutputWritten t c (body c t)) (l : List ChanIx) (s : State) :
    WalkFrame s (forChans l body s) :=
  forChans_keeps l (fun c _ t ht => ht.trans (hbody c t).walkFrame) (walkFrame_refl s)

/-- Writing the outputs of a channel of a unit keeps the state safe when only a waiting PC channel gets a pending delay, with its pin
low, and a channel with `FIRE = 0` is low. -/
theorem OutputWritten.safe {s t : State} {c : ChanIx} {u : UnitId} (h : OutputWritten s c t) (hs : Safe s) (hc : InUnit s u c)
    (hpend : (t.chan c).pend ≠ none → u = .pc ∧ t.chanPin c = false ∧ (s.chan c).fire ≠ 0)
    (hlow : (s.chan c).fire = 0 → t.chanPin c = false) (hbal : -1 ≤ (t.chan c).bal.toInt ∧ (t.chan c).bal.toInt ≤ 1)
    (hres : t.errFlags &&& 0xF0 = 0) : Safe t := by
  obtain ⟨hcn, hen, hmode⟩ := hc
  obtain ⟨-, hlimit, hmin, hmax, -, hfire, hen', honline, hlut, hmode', -⟩ := h.config
  have safe := hs.channels c hcn
  have count (v : UnitId) : t.count v = s.count v := count_congr (by rw [h.upc]) (by rw [h.ucs]) v
  refine hs.of_local h.walkFrame.sameRegistration h.others hcn h.walkFrame.semi count (fun q hq => ?_) hres ?_
  · by_cases hqc : q = (s.chan c).pinsel
    · exact .inr ⟨hen, hqc.symm⟩
    · exact .inl (by rwa [h.other_pins q hqc] at hq)
  · refine ⟨?_, ?_, ?_, fun hp => ?_, fun _ => ?_, hbal⟩
    · rw [BoundsLegal, ← hlimit, ← hmin, ← hmax]; exact safe.bounds
    · rw [← honline, ← hfire]; exact safe.offline_zero
    · rw [← hlut, ← hmode', h.walkFrame.semi]; exact safe.lut_needs_semi
    · obtain ⟨hu, hpin, hf⟩ := hpend hp
      exact ⟨hen' ▸ hen, by rw [← hmode', hmode, hu], hpin, hfire ▸ hf⟩
    · rw [← hfire]; exact hlow

/-- A loop over the channels of a unit keeps the state safe if each body does. -/
theorem safe_forChans {body : ChanIx → State → State} {u : UnitId} {s : State} (hs : Safe s)
    (hbody : ∀ c t, OutputWritten t c (body c t)) (hsafe : ∀ c t, Safe t → InUnit t u c → Safe (body c t)) :
    Safe (forChans (s.chansOf u) body s) := by
  have keep : Safe (forChans (s.chansOf u) body s) ∧ WalkFrame s (forChans (s.chansOf u) body s) :=
    forChans_keeps (P := fun t => Safe t ∧ WalkFrame s t) _ (fun c hc t ⟨ht, hf⟩ =>
      ⟨hsafe c t ht ((hf.sameRegistration.inUnit u c).2 (mem_chansOf.1 hc)), hf.trans (hbody c t).walkFrame⟩) ⟨hs, walkFrame_refl s⟩
  exact keep.1

/-! ### Unit PC: delays that fall due -/

/-- A channel after the scan for elapsed delays: one that is due no longer waits (R169, R172). -/
def clearDue (now : Int) (ch : Channel) : Channel :=
  match ch.pend with
  | none => ch
  | some t => if (t.toNat : Int) ≤ now then { ch with pend := none } else ch

theorem clearDue_pend {now : Int} {ch : Channel} {t : Ticks} (h : (clearDue now ch).pend = some t) : now < (t.toNat : Int) := by
  unfold clearDue at h
  split at h
  · next hn => simp [hn] at h
  · next x hx =>
    split at h
    · simp at h
    · next hlt =>
      rw [hx] at h
      cases h; omega

/-- What a scan for elapsed delays does to a channel: nothing while it is not due; otherwise it no longer waits, and its pin went
high or the firing was dropped and flagged (R169, R172). -/
def ScansDue (body : ChanIx → State → State) : Prop :=
  ∀ c s, (body c s = s ∧ clearDue s.upc.count.toInt (s.chan c) = s.chan c) ∨
    ((s.chan c).pend ≠ none ∧ clearDue s.upc.count.toInt (s.chan c) = { s.chan c with pend := none } ∧
      (body c s = (s.driveChan c true).setPend c none ∨ body c s = (s.setFlag .timing).setPend c none))

theorem scansDue_alarmFire : ScansDue alarmFire := by
  intro c s
  rcases h : (s.chan c).pend with _ | t
  · exact .inl (by simp [alarmFire, clearDue, h])
  · by_cases hdue : (t.toNat : Int) ≤ s.upc.count.toInt
    · exact .inr (by simp [alarmFire, clearDue, h, hdue])
    · exact .inl (by simp [alarmFire, clearDue, h, hdue])

theorem scansDue_zcLate : ScansDue zcLate := by
  intro c s
  rcases h : (s.chan c).pend with _ | t
  · exact .inl (by simp [zcLate, clearDue, h])
  · by_cases hdue : (t.toNat : Int) ≤ s.upc.count.toInt
    · refine .inr ⟨by simp, by simp [clearDue, h, hdue], ?_⟩
      by_cases hlate : s.upc.count.toInt - t.toNat ≤ s.params.tLateMax.toNat
      · exact .inl (by simp [zcLate, h, hdue, hlate])
      · exact .inr (by simp [zcLate, h, hdue, hlate])
    · exact .inl (by simp [zcLate, clearDue, h, hdue])

section
variable {body : ChanIx → State → State} (h : ScansDue body)
include h

theorem ScansDue.written (c : ChanIx) (s : State) : OutputWritten s c (body c s) := by
  obtain ⟨hb, -⟩ | ⟨-, -, hb | hb⟩ := h c s <;> rw [hb]
  · exact outputWritten_refl s c
  · exact (outputWritten_driveChan s c true).setPend none
  · exact (outputWritten_setFlag s c .timing).setPend none

theorem ScansDue.chan (c : ChanIx) (s : State) : (body c s).chan c = clearDue s.upc.count.toInt (s.chan c) := by
  obtain ⟨hb, hclear⟩ | ⟨-, hclear, hb | hb⟩ := h c s <;> rw [hb, hclear]
  · simp
  · simp

/-- A channel that waits has a `FIRE` that is not 0, so taking it high is safe. -/
theorem ScansDue.safe (c : ChanIx) (s : State) (hs : Safe s) (hc : InUnit s .pc c) : Safe (body c s) := by
  have hw := h.written c s
  have hchan := h.chan c s
  obtain ⟨hb, -⟩ | ⟨hwaits, hclear, hb⟩ := h c s
  · rwa [hb]
  · have safe := hs.channels c hc.1
    obtain ⟨-, -, -, hf⟩ := safe.pend_waits hwaits
    have hres : (body c s).errFlags &&& 0xF0 = 0 := by
      obtain hb | hb := hb <;> rw [hb]
      · simpa using hs.reserved
      · exact reserved_or_bit .timing hs.reserved
    rw [hclear] at hchan
    exact hw.safe hs hc (by simp [hchan]) (fun h0 => absurd h0 hf) (by simpa [hchan] using safe.balance) hres

/-- After a scan of the PC channels `rearm()` makes the invariants whole. -/
theorem ScansDue.rearm_inv {s : State} (hs : Safe s) (hd : ∀ c : ChanIx, c.val < s.params.nCh → Derived s (s.chan c)) :
    WholeInv (rearm (forChans (s.chansOf .pc) body s)) := by
  have hf := walkFrame_forChans h.written (s.chansOf .pc) s
  have safe := safe_forChans hs h.written h.safe
  have hchan := forChans_chan (P := fun t => t.upc = s.upc) (g := fun _ => clearDue s.upc.count.toInt) (nodup_chansOf s .pc)
    (fun c _ t ht => (h.written c t).upc.trans ht) (fun c _ t _ => (h.written c t).others) (fun c _ t ht => by rw [h.chan, ht]) rfl
  generalize forChans (s.chansOf .pc) body s = t at hf safe hchan
  have same : SameFile t (rearm t) := ⟨by simp, by simp, by simp⟩
  have semi (u : UnitId) : (rearm t).semi u = t.semi u := semi_congr (by simp) (by simp) u
  refine ⟨safe.of_sameFile same (fun c hc => ?_) (fun u hu => ?_) (by simpa using safe.idle) (by simpa using safe.reserved),
    (rearm_rearmed t).1, fun c x hp => ?_, fun c hc _ => ?_⟩
  · rw [semi]; exact (safe.channels c hc).lut_needs_semi
  · rw [count_congr (s := t) (by simp) (by simp)]; exact safe.stopped u hu
  · have hp := (same.pending c x).1 hp
    have hx := hp.2
    rw [hchan c, if_pos (mem_chansOf.2 ((hf.sameRegistration.inUnit _ _).1 hp.1))] at hx
    simpa [hf.upc] using clearDue_pend hx
  · rw [rearm_chan]
    exact (hf.derived hd c (by simpa using hc)).frame (by simp) (semi _)

end

theorem alarmPc_inv {s : State} (hs : Safe s) (hd : ∀ c : ChanIx, c.val < s.params.nCh → Derived s (s.chan c)) : WholeInv (alarmPc s) :=
  scansDue_alarmFire.rearm_inv hs hd

/-- While unit PC runs no value of its counter is unsafe; only the alarm looks at it (`Ahead`). -/
theorem Safe.setCount_pc {s : State} (hs : Safe s) (hrun : ∃ c, InUnit s .pc c) (x : Int) : Safe (s.setCount .pc x) := by
  refine hs.of_sameFile ⟨rfl, fun _ => rfl, rfl⟩ (fun c hc => ?_) (fun u hu => ?_) hs.idle hs.reserved
  · rw [semi_setCount]; exact (hs.channels c hc).lut_needs_semi
  · cases u
    · exact absurd hrun hu
    · exact hs.stopped .cs hu

theorem derived_setCount {s : State} (hd : ∀ c : ChanIx, c.val < s.params.nCh → Derived s (s.chan c)) (u : UnitId) (x : Int)
    (c : ChanIx) (hc : c.val < (s.setCount u x).params.nCh) : Derived (s.setCount u x) ((s.setCount u x).chan c) := by
  rw [chan_setCount]
  exact (hd c (by simpa using hc)).frame (by simp) (by simp)

/-- The PCU part of `TICK` keeps the invariants: either the alarm lies ahead of the new counter, and with it every pending delay, or
the scan clears what is due (R172, R173). -/
theorem pcTick_inv {s : State} (hs : WholeInv s) : WholeInv (pcTick s) := by
  unfold pcTick
  split
  · next hr =>
    have hrun := run_iff.1 hr
    have hd := fun c hc => hs.derived c hc not_false
    obtain ⟨n, hn⟩ : ∃ n, (if s.upc.count.toInt < 0x7FFFFFFF then s.setCount .pc (s.upc.count.toInt + 1) else s) = s.setCount .pc n := by
      split
      · exact ⟨_, rfl⟩
      · exact ⟨s.upc.count.toInt, by simp [State.setCount]⟩
    simp only [hn]
    have safe := hs.safe.setCount_pc hrun n
    have derived := derived_setCount hd .pc n
    split
    · exact alarmPc_inv safe derived
    · next hquiet =>
      refine ⟨safe, alarmLeast_congr hs.least (fun _ _ => Iff.rfl) rfl rfl, fun c t hp => ?_, fun c hc _ => derived c hc⟩
      have armed : s.upc.armed = true := hs.least.1.2 ⟨c, t, hp⟩
      have least : s.upc.alarm.toNat ≤ t.toNat := (hs.least.2 armed).2 c t hp
      have ahead : ¬ (s.upc.alarm.toNat : Int) ≤ (s.setCount .pc n).upc.count.toInt := fun h => hquiet ⟨armed, h⟩
      omega
  · exact hs

/-! ### `ZC.PC` -/

theorem chanPin_driveChan_low (s : State) (c : ChanIx) : (s.driveChan c false).chanPin c = false := by
  rw [State.chanPin, chan_driveChan]
  exact pin_setPin_low s _

/-- The walk of R168 drives the channel's pin and sets its pending delay: high at `FIRE = 1.0` only, waiting only when low and partly
on. -/
theorem zcWalk_cases (c : ChanIx) (s : State) :
    ∃ v x, zcWalk c s = (s.driveChan c v).setPend c x ∧ (v = true → x = none ∧ (s.chan c).fire ≠ 0) ∧
      (x ≠ none → (s.chan c).fire ≠ 0) := by
  by_cases hone : (s.chan c).fire = 0x10000
  · exact ⟨true, none, by simp [zcWalk, hone], fun _ => ⟨rfl, by rw [hone]; decide⟩, by simp⟩
  by_cases hoff : (s.chan c).fire = 0 ∨ s.upc.semi = 0
  · exact ⟨false, none, by simp only [zcWalk, hone, hoff, if_true, if_false], by simp, by simp⟩
  · exact ⟨false, _, by simp only [zcWalk, hone, hoff, if_false]; rfl, by simp, fun _ h0 => hoff (.inl h0)⟩

theorem zcWalk_written (c : ChanIx) (s : State) : OutputWritten s c (zcWalk c s) := by
  obtain ⟨v, x, h, -⟩ := zcWalk_cases c s
  exact h ▸ (outputWritten_driveChan s c v).setPend x

theorem zcWalk_safe (c : ChanIx) (s : State) (hs : Safe s) (hc : InUnit s .pc c) : Safe (zcWalk c s) := by
  have hw := zcWalk_written c s
  obtain ⟨v, x, h, hhigh, hwait⟩ := zcWalk_cases c s
  have low (hv : v = false) : (zcWalk c s).chanPin c = false := by
    rw [h, hv, State.chanPin, chan_setPend_same]; exact chanPin_driveChan_low s c
  refine hw.safe hs hc (fun hp => ?_) (fun h0 => low ?_) (by simpa [h] using (hs.channels c hc.1).balance) (by simpa [h] using hs.reserved)
  · have hx : x ≠ none := by simpa [h] using hp
    exact ⟨rfl, low (by by_contra hv; exact hx (hhigh (by simpa using hv)).1), hwait hx⟩
  · by_contra hv
    exact (hhigh (by simpa using hv)).2 h0

/-- The zero-cross step of unit PC keeps the invariants (R168 to R171). -/
theorem zcPC_inv {s : State} (hs : WholeInv s) (d : BitVec 16) : WholeInv (zcPC d s) := by
  unfold zcPC
  split
  · next hr =>
    have safe := hs.safe.setCount_pc (run_iff.1 hr) (operandZc d)
    have derived := derived_setCount (fun c hc => hs.derived c hc not_false) .pc (operandZc d)
    exact scansDue_zcLate.rearm_inv (safe_forChans safe zcWalk_written zcWalk_safe)
      ((walkFrame_forChans zcWalk_written _ _).derived derived)
  · exact hs

/-! ### Unit CS: boundaries -/

theorem polarity_eq (s : State) : polarity s = 1 ∨ polarity s = -1 := by
  unfold polarity; split <;> simp

/-- Conducting where it does not increase the balance keeps it in `-1..1` (R34, R207). -/
theorem balance_conduct {b : BitVec 2} {p : Int} (hp : p = 1 ∨ p = -1) (hb : -1 ≤ b.toInt ∧ b.toInt ≤ 1)
    (hm : mayConduct b.toInt p = true) : -1 ≤ (BitVec.ofInt 2 (b.toInt + p)).toInt ∧ (BitVec.ofInt 2 (b.toInt + p)).toInt ≤ 1 := by
  obtain rfl | rfl := hp <;> revert b <;> decide

theorem setChan_self (s : State) (c : ChanIx) : s.setChan c (s.chan c) = s := by
  simp [State.setChan, State.chan, Vector.get_eq_getElem]

/-- The decision of R207 drives the channel's pin, low at `FIRE = 0`, and writes at most its debt and its balance, the balance only
when the polarity allows conducting. -/
theorem decideChan_cases (p : Int) (c : ChanIx) (s : State) :
    ∃ v x, decideChan p c s = (s.driveChan c v).setChan c x ∧ SameConfiguration (s.chan c) x ∧ x.pend = (s.chan c).pend ∧
      ((s.chan c).fire = 0 → v = false) ∧
      (x.bal = (s.chan c).bal ∨ mayConduct (s.chan c).bal.toInt p = true ∧ x.bal = BitVec.ofInt 2 ((s.chan c).bal.toInt + p)) := by
  have keep (v : Bool) : s.driveChan c v = (s.driveChan c v).setChan c (s.chan c) := by
    rw [← chan_driveChan s c v c, setChan_self]
  unfold decideChan
  dsimp only
  split
  · next hone => exact ⟨true, _, keep true, by simp [SameConfiguration], rfl, fun h0 => absurd hone (by simp [h0]), .inl rfl⟩
  split
  · exact ⟨false, _, keep false, by simp [SameConfiguration], rfl, fun _ => rfl, .inl rfl⟩
  next hpart =>
    split
    · next hc =>
      exact ⟨true, _, rfl, by simp [SameConfiguration], rfl, fun h0 => absurd h0 hpart, .inr ⟨((Bool.and_eq_true _ _).mp hc).2, rfl⟩⟩
    · exact ⟨false, _, rfl, by simp [SameConfiguration], rfl, fun _ => rfl, .inl rfl⟩

theorem decideChan_written (p : Int) (c : ChanIx) (s : State) : OutputWritten s c (decideChan p c s) := by
  obtain ⟨v, x, h, hx, -⟩ := decideChan_cases p c s
  exact h ▸ (outputWritten_driveChan s c v).setChan hx

/-- A CS channel has nothing pending, and a boundary takes it high only when its `FIRE` is not 0. -/
theorem decideChan_inv {p : Int} (hp : p = 1 ∨ p = -1) {c : ChanIx} {s : State} (hs : WholeInv s) (hc : InUnit s .cs c) :
    WholeInv (decideChan p c s) := by
  have hw := decideChan_written p c s
  have hf := hw.walkFrame
  have safe := hs.safe.channels c hc.1
  obtain ⟨v, x, h, hx, hpend, hlow, hbal⟩ := decideChan_cases p c s
  have hchan : (decideChan p c s).chan c = x := by rw [h, chan_setChan_same]
  have idle : x.pend = none := by
    by_contra hne
    obtain ⟨-, hm, -⟩ := safe.pend_waits (hpend ▸ hne)
    simp [hc.2.2] at hm
  have low (h0 : (s.chan c).fire = 0) : (decideChan p c s).chanPin c = false := by
    obtain ⟨-, -, -, -, -, -, -, -, -, -, hpin⟩ := hx
    rw [State.chanPin, hchan, ← hpin, h, hlow h0]
    exact pin_setPin_low s _
  have balance : -1 ≤ x.bal.toInt ∧ x.bal.toInt ≤ 1 := by
    obtain hbal | ⟨hmay, hbal⟩ := hbal <;> rw [hbal]
    · exact safe.balance
    · exact balance_conduct hp safe.balance hmay
  have pending (k : ChanIx) (y : Ticks) : Pending (decideChan p c s) k y ↔ Pending s k y := by
    have hk : ((decideChan p c s).chan k).pend = (s.chan k).pend := by
      by_cases hkc : k = c
      · rw [hkc, hchan, hpend]
      · rw [hw.others k hkc]
    simp only [Pending, hf.sameRegistration.inUnit, hk]
  refine ⟨hw.safe hs.safe hc (fun hne => absurd (hchan ▸ idle) hne) low (hchan ▸ balance) (by simpa [h] using hs.safe.reserved),
    alarmLeast_congr hs.least pending (by rw [hf.upc]) (by rw [hf.upc]), hs.ahead.congr (fun k y => (pending k y).1) (by rw [hf.upc]),
    fun k hk _ => hf.derived (fun k hk => hs.derived k hk not_false) k hk⟩

/-- The channels a boundary decides (R207). -/
def decided (s : State) : State := forChans (s.chansOf .cs) (decideChan (polarity s)) s

theorem boundary_eq (s : State) : boundary s = { decided s with ucs := { (decided s).ucs with pol := !(decided s).ucs.pol } } := rfl

theorem decided_walkFrame (s : State) : WalkFrame s (decided s) := walkFrame_forChans (decideChan_written _) _ _

theorem decided_inv {s : State} (hs : WholeInv s) : WholeInv (decided s) := by
  have keep : WholeInv (decided s) ∧ WalkFrame s (decided s) :=
    forChans_keeps (P := fun t => WholeInv t ∧ WalkFrame s t) _ (fun c hc t ⟨ht, hf⟩ =>
      ⟨decideChan_inv (polarity_eq s) ht ((hf.sameRegistration.inUnit _ c).2 (mem_chansOf.1 hc)),
        hf.trans (decideChan_written _ c t).walkFrame⟩) ⟨hs, walkFrame_refl s⟩
  exact keep.1

theorem boundary_inv {s : State} (hs : WholeInv s) : WholeInv (boundary s) := by
  rw [boundary_eq]
  exact (decided_inv hs).setPol _

/-- A boundary leaves the unit's channels and its semi-period as they are. -/
theorem boundary_unit (s : State) : (∀ c, InUnit (boundary s) .cs c ↔ InUnit s .cs c) ∧ (boundary s).ucs.semi = s.ucs.semi :=
  ⟨fun c => (decided_walkFrame s).sameRegistration.inUnit .cs c, by
    have : (decided s).ucs.semi = s.ucs.semi := by rw [(decided_walkFrame s).ucs]
    exact this⟩

/-- The CSU part of `TICK` keeps the invariants (R204, R205). -/
theorem csTick_inv {s : State} (hs : WholeInv s) : WholeInv (csTick s) := by
  unfold csTick
  split
  · next hr =>
    split
    · exact hs.setCount_cs 0 (.inr rfl)
    · next hsemi =>
      have counted := hs.setCount_cs (s.ucs.count.toInt + 1) (.inl ⟨run_iff.1 hr, hsemi⟩)
      dsimp only
      split
      · exact (boundary_inv counted).setCount_cs 0 (.inr rfl)
      · exact counted
  · exact hs

theorem tick_inv {s : State} (hs : WholeInv s) : WholeInv (tick s) := csTick_inv (pcTick_inv hs)

/-- The zero-cross step of unit CS keeps the invariants (R208). -/
theorem zcCS_inv {s : State} (hs : WholeInv s) (d : BitVec 16) : WholeInv (zcCS d s) := by
  unfold zcCS
  split
  · next h =>
    obtain ⟨hr, hsemi⟩ := h
    have hrun := run_iff.1 hr
    obtain ⟨hunit, hbsemi⟩ := boundary_unit s
    dsimp only
    split
    · exact hs.setCount_cs _ (.inl ⟨hrun, hsemi⟩)
    split
    · exact (boundary_inv hs).setCount_cs _ (.inl ⟨by simpa only [hunit] using hrun, by rwa [hbsemi]⟩)
    · exact hs.setCount_cs _ (.inl ⟨hrun, hsemi⟩)
  · exact hs

/-! ### Reset and the step -/

theorem resetOf_chan (p : Params) (l : FiringDelayTable) (c : ChanIx) : (State.resetOf p l).chan c = Channel.reset := by
  simp [State.chan, State.resetOf, Vector.get_eq_getElem]

theorem resetOf_pin (p : Params) (l : FiringDelayTable) (q : BitVec 8) : (State.resetOf p l).pin q = false := by
  simp [State.pin, State.resetOf]

/-- At reset no channel is registered, so no pin, alarm or counter has anything to hold. -/
theorem resetOf_inv (p : Params) (l : FiringDelayTable) : WholeInv (State.resetOf p l) := by
  have disabled : ∀ c, ((State.resetOf p l).chan c).enabled = false := fun c => by rw [resetOf_chan]; rfl
  have nothingPending : ∀ c x, ¬ Pending (State.resetOf p l) c x := fun c x ⟨⟨_, he, _⟩, _⟩ => by
    simp [disabled] at he
  refine ⟨⟨fun c _ => ?_, ⟨by simp [disabled], by simp [disabled]⟩, by simp [resetOf_pin], fun u _ => by cases u <;> rfl,
    fun _ => rfl, BitVec.zero_and⟩,
    ⟨⟨fun h => absurd h Bool.false_ne_true, fun ⟨c, x, h⟩ => absurd h (nothingPending c x)⟩, fun h => absurd h Bool.false_ne_true⟩,
    fun c x h => absurd h (nothingPending c x),
    fun c _ _ => ?_⟩
  · constructor <;> simp [resetOf_chan, Channel.reset, BoundsLegal]
  · constructor <;> simp [resetOf_chan, Channel.reset, IsMapped, IsFire]

/-- Every step keeps the invariants: each kind of input by its own lemma. -/
theorem step_inv {s t : State} (hs : WholeInv s) (h : step s = .next t) : WholeInv t := by
  have hnext : WholeInv (nextInput s).2 := by
    unfold nextInput
    split
    · exact hs
    · exact hs.takeInput _
  unfold step at h
  rcases hi : nextInput s with ⟨i, s'⟩
  simp only [hi] at h hnext
  have quiet : WholeInv s'.quiet := hnext.respond _ _
  cases i with
  | tick => cases h; exact tick_inv quiet
  | zcPC d => cases h; exact zcPC_inv quiet d
  | zcCS d => cases h; exact zcCS_inv quiet d
  | cmd w => exact command_inv hnext h
  | rst => cases h; exact (resetOf_inv s'.params s'.lut).takeInput _

/-- Settles O36: the parts of R45 hold at reset and every step keeps them. -/
theorem stateInvariantsKept : Obligations.StateInvariantsKept := by
  unfold Obligations.StateInvariantsKept
  exact ⟨fun p l => inv_iff_wholeInv.2 (resetOf_inv p l), fun s t hs h => inv_iff_wholeInv.2 (step_inv (inv_iff_wholeInv.1 hs) h)⟩

/-- Settles O33: the reset state field by field (R46). -/
theorem resetValues : Obligations.ResetValues := by
  unfold Obligations.ResetValues
  exact ⟨rfl, rfl, rfl, rfl, rfl, resetOf_chan Config.params Config.lut⟩

end Sys2Proof.Machine

/-! The command word refused (R88). Each format of the decoder runs some of the six tests in order, so the error it answers, as an
option, is that part of the chain `illegalTest`; no opcode leaves a test of its own out. -/

namespace Sys2Proof.Machine

/-! ### The tests of the decoder, one by one -/

/-- The test of R88 that made a decoding fail, `none` for a legal word. -/
def failedTest : Except Illegal Instr → Option Illegal
  | .ok _ => none
  | .error e => some e

@[simp] theorem failedTest_ok (i : Instr) : failedTest (.ok i) = none := rfl

@[simp] theorem failedTest_error (e : Illegal) : failedTest (.error e) = some e := rfl

theorem failedTest_eq_some {x : Except Illegal Instr} {e : Illegal} : failedTest x = some e ↔ x = .error e := by
  cases x <;> simp

/-- R88 test (2). -/
theorem failedTest_withChannel (nCh : Nat) (w : Word) (k : ChanIx → Except Illegal Instr) :
    failedTest (withChannel nCh w k) =
      if nCh ≤ (chField w).toNat then some .channel else failedTest (k (chField w).toFin) := by
  unfold withChannel
  split
  · rw [if_neg (by omega)]
  · rw [if_pos (by omega), failedTest_error]

/-- R88 test (3). -/
theorem failedTest_withUnit (w : Word) (k : UnitId → Except Illegal Instr) :
    failedTest (withUnit w k) =
      if 1 < (chField w).toNat then some .unit else failedTest (k (.ofCode ((chField w).getLsbD 0))) := by
  unfold withUnit
  split
  · rw [if_neg (by omega)]
  · rw [if_pos (by omega), failedTest_error]

/-- R88 test (4). -/
theorem failedTest_withoutChannel (w : Word) (k : Except Illegal Instr) :
    failedTest (withoutChannel w k) = if (chField w).toNat ≠ 0 then some .channelNotZero else failedTest k := by
  have zero_iff : chField w = 0 ↔ (chField w).toNat = 0 := BitVec.toNat_inj.symm
  unfold withoutChannel
  split
  · rw [if_neg (by simpa only [ne_eq, not_not] using zero_iff.1 ‹_›)]
  · rw [if_pos (mt zero_iff.2 ‹_›), failedTest_error]

/-- R88 test (5). -/
theorem failedTest_withReserved (n : Nat) (w : Word) (k : Except Illegal Instr) :
    failedTest (withReserved n w k) = if 2 ^ n ≤ (immField w).toNat then some .reservedBit else failedTest k := by
  unfold withReserved
  split
  · rw [if_neg (by omega)]
  · rw [if_pos (by omega), failedTest_error]

/-- Without reserved bits set, the selector code of format `K` (R82) is the whole of `imm`. -/
theorem selectorCode_toNat {w : Word} (h : ¬ 2 ^ 8 ≤ (immField w).toNat) :
    ((immField w).extractLsb' 0 8).toNat = (immField w).toNat := by
  simp only [BitVec.extractLsb'_toNat, Nat.shiftRight_zero]
  exact Nat.mod_eq_of_lt (by omega)

/-! ### The formats that test a value of `imm` -/

/-- `GET`: tests (2), (5) and (6). -/
theorem failedTest_decodeGet (nCh : Nat) (w : Word) :
    failedTest (decodeGet nCh w) =
      if nCh ≤ (chField w).toNat then some .channel
      else if 2 ^ 8 ≤ (immField w).toNat then some .reservedBit
      else if 9 < (immField w).toNat then some .selector else none := by
  rw [decodeGet, failedTest_withChannel, failedTest_withReserved]
  refine ite_congr rfl (fun _ => rfl) fun _ => ite_congr rfl (fun _ => rfl) fun hreserved => ?_
  have known := chanSel_ofCode_isSome ((immField w).extractLsb' 0 8)
  rw [selectorCode_toNat hreserved] at known
  split
  · rw [if_neg (by simp_all), failedTest_ok]
  · rw [if_pos (by simp_all), failedTest_error]

/-- `GETU`: tests (3), (5) and (6). -/
theorem failedTest_decodeGetU (w : Word) :
    failedTest (decodeGetU w) =
      if 1 < (chField w).toNat then some .unit
      else if 2 ^ 8 ≤ (immField w).toNat then some .reservedBit
      else if 5 < (immField w).toNat then some .selector else none := by
  rw [decodeGetU, failedTest_withUnit, failedTest_withReserved]
  refine ite_congr rfl (fun _ => rfl) fun _ => ite_congr rfl (fun _ => rfl) fun hreserved => ?_
  have known := unitSel_ofCode_isSome ((immField w).extractLsb' 0 8)
  rw [selectorCode_toNat hreserved] at known
  split
  · rw [if_neg (by simp_all), failedTest_ok]
  · rw [if_pos (by simp_all), failedTest_error]

/-- `GETLUT`: tests (4) and (6); the whole of `imm` is the index. -/
theorem failedTest_decodeGetLut (w : Word) :
    failedTest (decodeGetLut w) =
      if (chField w).toNat ≠ 0 then some .channelNotZero
      else if 79 < (immField w).toNat then some .selector else none := by
  rw [decodeGetLut, failedTest_withoutChannel]
  refine ite_congr rfl (fun _ => rfl) fun _ => ?_
  split
  · rw [if_neg (by omega), failedTest_ok]
  · rw [if_pos (by omega), failedTest_error]

/-! ### The decoder and the step -/

/-- The decoder fails for the first test of R88 that holds: per opcode, the tests of its format are those of the chain whose
condition on `op` it meets. -/
theorem failedTest_decode (nCh : Nat) (w : Word) : failedTest (decode nCh w) = illegalTest nCh w := by
  have hop : (opField w).toNat < 16 := (opField w).isLt
  simp only [illegalTest, ← opField_toNat, ← chField_toNat, ← immField_toNat]
  unfold decode
  split
  case h_15 =>
    have reserved : (opField w).toNat = 0xE ∨ (opField w).toNat = 0xF := by
      simp only [imp_false] at *
      omega
    rw [if_pos reserved, failedTest_error]
  all_goals
    rename_i op
    simp [op, decodeBegin, decodeD, decodeB, failedTest_decodeGet, failedTest_decodeGetU, failedTest_decodeGetLut,
      failedTest_withChannel, failedTest_withUnit, failedTest_withoutChannel, failedTest_withReserved, Nat.one_le_iff_ne_zero]

theorem raise_illegal (s : State) : s.raise .illegal = refusedBy 1 s := rfl

/-- The step that takes a presented word is its command step (R80). -/
theorem step_of_cmd {s : State} {w : Word} {rest : List Input} (h : s.inputs = .cmd w :: rest) :
    step s = command w { s with inputs := rest } := by
  simp only [step, nextInput, h]

/-- The command step of a word the decoder refuses: `raise Illegal` (R88). -/
theorem command_of_decode_error {s : State} {w : Word} {e : Illegal} (h : decode s.params.nCh w = .error e) :
    command w s = .next (refusedBy 1 s) := by
  simp only [command, fetch, h, refuseWord, raise_illegal]

/-- Settles O3: the decoder's error is the first test that holds, and `raise Illegal` is the whole step. -/
theorem illegalWordsRefused : Obligations.IllegalWordsRefused := by
  unfold Obligations.IllegalWordsRefused
  intro s w rest hin
  have decode_error_iff (e : Illegal) : decode s.params.nCh w = .error e ↔ illegalTest s.params.nCh w = some e := by
    rw [← failedTest_decode, failedTest_eq_some]
  refine ⟨decode_error_iff, fun hillegal => ?_⟩
  obtain ⟨e, he⟩ := Option.ne_none_iff_exists'.1 hillegal
  rw [step_of_cmd hin]
  exact command_of_decode_error ((decode_error_iff e).2 he)

end Sys2Proof.Machine

/-! The DutyCycleController's commands (R110 to R117): the words that stand for them, the remap, and what each leaves of the state.
`SETDUTY` runs `set_duty`; `SETLIMIT`, `SETMIN`, `SETMAX` and `SETONLINE c, 1` write one register and run it with the stored duty, so
that one lemma, `reapply_dutySet`, gives the effect of all four. -/

namespace Sys2Proof.Machine

/-! ### The word of a channel command (R81, R82) -/

/-- The `op` field of a command (R85). -/
def opcode : Instr → Nat
  | .nop => 0x0
  | .beginChan _ _ _ => 0x1
  | .endChan _ => 0x2
  | .setDuty _ _ => 0x3
  | .setLimit _ _ => 0x4
  | .setMin _ _ => 0x5
  | .setMax _ _ => 0x6
  | .setOnline _ _ => 0x7
  | .setLut _ _ => 0x8
  | .setSemi _ _ => 0x9
  | .get _ _ => 0xA
  | .getU _ _ => 0xB
  | .getLut _ => 0xC
  | .clrErr _ => 0xD

theorem withChannel_eq_ok {nCh : Nat} {w : Word} {k : ChanIx → Except Illegal Instr} {i : Instr} :
    withChannel nCh w k = .ok i ↔ (chField w).toNat < nCh ∧ k (chField w).toFin = .ok i := by
  unfold withChannel
  split <;> simp [*]

theorem withUnit_eq_ok {w : Word} {k : UnitId → Except Illegal Instr} {i : Instr} :
    withUnit w k = .ok i ↔ (chField w).toNat ≤ 1 ∧ k (.ofCode ((chField w).getLsbD 0)) = .ok i := by
  unfold withUnit
  split <;> simp [*]

theorem withoutChannel_eq_ok {w : Word} {k : Except Illegal Instr} {i : Instr} :
    withoutChannel w k = .ok i ↔ chField w = 0 ∧ k = .ok i := by
  unfold withoutChannel
  split
  · next h => simp only [h, true_and]
  · next h => simp only [h, false_and, reduceCtorEq]

theorem withReserved_eq_ok {n : Nat} {w : Word} {k : Except Illegal Instr} {i : Instr} :
    withReserved n w k = .ok i ↔ (immField w).toNat < 2 ^ n ∧ k = .ok i := by
  unfold withReserved
  split <;> simp [*]

theorem decodeGet_eq_ok {nCh : Nat} {w : Word} {i : Instr} (h : decodeGet nCh w = .ok i) : ∃ c k, i = .get c k := by
  obtain ⟨-, h⟩ := withChannel_eq_ok.1 h
  obtain ⟨-, h⟩ := withReserved_eq_ok.1 h
  split at h
  · cases h; exact ⟨_, _, rfl⟩
  · cases h

theorem decodeGetU_eq_ok {w : Word} {i : Instr} (h : decodeGetU w = .ok i) : ∃ u k, i = .getU u k := by
  obtain ⟨-, h⟩ := withUnit_eq_ok.1 h
  obtain ⟨-, h⟩ := withReserved_eq_ok.1 h
  split at h
  · cases h; exact ⟨_, _, rfl⟩
  · cases h

theorem decodeGetLut_eq_ok {w : Word} {i : Instr} (h : decodeGetLut w = .ok i) : ∃ k, i = .getLut k := by
  obtain ⟨-, h⟩ := withoutChannel_eq_ok.1 h
  split at h
  · cases h; exact ⟨_, rfl⟩
  · cases h

/-- A word decodes only to a command of its `op` field (R85). -/
theorem opField_of_decode {nCh : Nat} {w : Word} {i : Instr} (h : decode nCh w = .ok i) : (opField w).toNat = opcode i := by
  unfold decode at h
  split at h
  case h_11 hop => obtain ⟨c, k, rfl⟩ := decodeGet_eq_ok h; exact hop
  case h_12 hop => obtain ⟨u, k, rfl⟩ := decodeGetU_eq_ok h; exact hop
  case h_13 hop => obtain ⟨k, rfl⟩ := decodeGetLut_eq_ok h; exact hop
  case h_15 => cases h
  all_goals
    rename_i hop
    revert h
    simp only [hop, decodeBegin, decodeD, decodeB, withChannel_eq_ok, withUnit_eq_ok, withoutChannel_eq_ok, withReserved_eq_ok,
      Except.ok.injEq, and_imp]
    intros
    subst i
    rfl

/-- A word's number is made of the numbers of its fields (R81). -/
theorem toNat_eq_fields {w : Word} {op ch imm : Nat} (hch : ch < 16) (himm : imm < 2 ^ 24) :
    w.toNat = op * 2 ^ 28 + ch * 2 ^ 24 + imm ↔
      (opField w).toNat = op ∧ (chField w).toNat = ch ∧ (immField w).toNat = imm := by
  rw [opField_toNat, chField_toNat, immField_toNat]
  omega

/-- The word of a command of format `D` (R82): the whole of `imm` is the operand. -/
theorem encodedAs_formatD {mk : ChanIx → BitVec 24 → Instr} {nCh op : Nat} (hmk : Function.Injective2 mk)
    (hop : ∀ c v, opcode (mk c v) = op) (hdecode : ∀ w, (opField w).toNat = op → decode nCh w = decodeD mk nCh w)
    {c : ChanIx} (hc : c.val < nCh) (v : BitVec 24) : EncodedAs nCh (mk c v) (op * 2 ^ 28 + c.val * 2 ^ 24 + v.toNat) := by
  intro w
  rw [toNat_eq_fields c.isLt v.isLt]
  constructor
  · intro h
    have hw := (opField_of_decode h).trans (hop c v)
    rw [hdecode w hw, decodeD, withChannel_eq_ok, Except.ok.injEq] at h
    obtain ⟨rfl, rfl⟩ := hmk h.2
    exact ⟨hw, rfl, rfl⟩
  · rintro ⟨hw, hch, himm⟩
    obtain rfl : (chField w).toFin = c := Fin.ext hch
    obtain rfl : immField w = v := BitVec.eq_of_toNat_eq himm
    rw [hdecode w hw, decodeD, withChannel_eq_ok]
    exact ⟨hc, rfl⟩

/-- The word of a command of format `B` (R82): bit 0 of `imm` is the operand, the others are reserved. -/
theorem encodedAs_formatB {mk : ChanIx → Bool → Instr} {nCh op : Nat} (hmk : Function.Injective2 mk)
    (hop : ∀ c b, opcode (mk c b) = op) (hdecode : ∀ w, (opField w).toNat = op → decode nCh w = decodeB mk nCh w)
    {c : ChanIx} (hc : c.val < nCh) (b : Bool) : EncodedAs nCh (mk c b) (op * 2 ^ 28 + c.val * 2 ^ 24 + b.toNat) := by
  intro w
  have flag_iff : (immField w).toNat < 2 ^ 1 ∧ (immField w).getLsbD 0 = b ↔ (immField w).toNat = b.toNat := by
    rw [BitVec.getLsbD, Nat.testBit_zero]
    cases b <;> simp <;> omega
  rw [toNat_eq_fields c.isLt (by cases b <;> decide), ← flag_iff]
  constructor
  · intro h
    have hw := (opField_of_decode h).trans (hop c b)
    rw [hdecode w hw, decodeB, withChannel_eq_ok, withReserved_eq_ok, Except.ok.injEq] at h
    obtain ⟨-, hreserved, h⟩ := h
    obtain ⟨rfl, hflag⟩ := hmk h
    exact ⟨hw, rfl, hreserved, hflag⟩
  · rintro ⟨hw, hch, hreserved, rfl⟩
    obtain rfl : (chField w).toFin = c := Fin.ext hch
    rw [hdecode w hw, decodeB, withChannel_eq_ok, withReserved_eq_ok]
    exact ⟨hc, hreserved, rfl⟩

theorem encodedAs_setDuty {nCh : Nat} {c : ChanIx} (hc : c.val < nCh) (v : BitVec 24) :
    EncodedAs nCh (.setDuty c v) (0x3 * 2 ^ 28 + c.val * 2 ^ 24 + v.toNat) :=
  encodedAs_formatD (mk := .setDuty) (fun _ _ _ _ h => Instr.setDuty.inj h) (fun _ _ => rfl)
    (fun w hw => by simp only [decode, hw]) hc v

theorem encodedAs_setLimit {nCh : Nat} {c : ChanIx} (hc : c.val < nCh) (v : BitVec 24) :
    EncodedAs nCh (.setLimit c v) (0x4 * 2 ^ 28 + c.val * 2 ^ 24 + v.toNat) :=
  encodedAs_formatD (mk := .setLimit) (fun _ _ _ _ h => Instr.setLimit.inj h) (fun _ _ => rfl)
    (fun w hw => by simp only [decode, hw]) hc v

theorem encodedAs_setMin {nCh : Nat} {c : ChanIx} (hc : c.val < nCh) (v : BitVec 24) :
    EncodedAs nCh (.setMin c v) (0x5 * 2 ^ 28 + c.val * 2 ^ 24 + v.toNat) :=
  encodedAs_formatD (mk := .setMin) (fun _ _ _ _ h => Instr.setMin.inj h) (fun _ _ => rfl)
    (fun w hw => by simp only [decode, hw]) hc v

theorem encodedAs_setMax {nCh : Nat} {c : ChanIx} (hc : c.val < nCh) (v : BitVec 24) :
    EncodedAs nCh (.setMax c v) (0x6 * 2 ^ 28 + c.val * 2 ^ 24 + v.toNat) :=
  encodedAs_formatD (mk := .setMax) (fun _ _ _ _ h => Instr.setMax.inj h) (fun _ _ => rfl)
    (fun w hw => by simp only [decode, hw]) hc v

theorem encodedAs_setOnline {nCh : Nat} {c : ChanIx} (hc : c.val < nCh) (b : Bool) :
    EncodedAs nCh (.setOnline c b) (0x7 * 2 ^ 28 + c.val * 2 ^ 24 + b.toNat) :=
  encodedAs_formatB (mk := .setOnline) (fun _ _ _ _ h => Instr.setOnline.inj h) (fun _ _ => rfl)
    (fun w hw => by simp only [decode, hw]) hc b

/-! ### The remap (R112) -/

theorem remap_eq (d lo hi : Nat) : remap d lo hi = lo + d * (hi - lo) / 0x10000 := by
  rw [remap, Nat.shiftRight_eq_div_pow]

theorem remap_zero (lo hi : Nat) : remap 0 lo hi = lo := by simp [remap_eq]

theorem remap_one {lo hi : Nat} (h : lo ≤ hi) : remap 0x10000 lo hi = hi := by
  rw [remap_eq, Nat.mul_div_cancel_left _ (by decide)]
  omega

theorem remap_mono {d e : Nat} (h : d ≤ e) (lo hi : Nat) : remap d lo hi ≤ remap e lo hi := by
  rw [remap_eq, remap_eq]
  exact Nat.add_le_add_left (Nat.div_le_div_right (Nat.mul_le_mul_right _ h)) _

/-- The remap is the real-number value `lo + d * (hi - lo) / 65536` rounded down to U1.16. -/
theorem remap_truncates (d lo hi : Nat) :
    0x10000 * remap d lo hi ≤ 0x10000 * lo + d * (hi - lo) ∧
    0x10000 * lo + d * (hi - lo) < 0x10000 * (remap d lo hi + 1) := by
  rw [remap_eq]
  generalize d * (hi - lo) = product
  omega

/-- Settles O7: the product shifted right by 16 is its quotient by 65536, rounded down. -/
theorem remapExactMonotone : Obligations.RemapExactMonotone := by
  unfold Obligations.RemapExactMonotone
  intro lo hi d e hbounds _ hde _
  obtain ⟨hbelow, hwithin⟩ := remap_truncates d lo hi
  exact ⟨remap_eq d lo hi, remap_zero lo hi, remap_one hbounds, remap_mono hde lo hi, hbelow, hwithin⟩

/-! ### The commands on an existing channel -/

/-- The body of a channel command runs on an existing channel (R88 test 2). -/
theorem onChannel_next {c : ChanIx} {s : State} (hc : c.val < s.params.nCh) (body : State → State) :
    onChannel c s body = .next (body s) := by
  simp [onChannel, hc]

section
variable {s : State} {c : ChanIx} (hc : c.val < s.params.nCh)
include hc

theorem exec_setDuty (v : BitVec 24) :
    exec (.setDuty c v) s = .next ((setDuty c v.toInt s).respond false (viewBit (setDutyResult c (setDuty c v.toInt s)))) := by
  simp only [exec, execSetDuty, onChannel_next hc, operandD]

theorem exec_setLimit (v : BitVec 24) :
    exec (.setLimit c v) s =
      .next ((reapply c (s.setChan c { s.chan c with limit := clampDuty v.toInt 0 0x10000 })).respond false 1) := by
  simp only [exec, execSetLimit, onChannel_next hc, operandD]

theorem exec_setMin (v : BitVec 24) :
    exec (.setMin c v) s =
      .next ((reapply c (s.setChan c { s.chan c with dutyMin := clampDuty v.toInt 0 (s.chan c).dutyMax.toNat })).respond false 1) := by
  simp only [exec, execSetMin, onChannel_next hc, operandD]

theorem exec_setMax (v : BitVec 24) :
    exec (.setMax c v) s =
      .next ((reapply c
        (s.setChan c { s.chan c with dutyMax := clampDuty v.toInt (s.chan c).dutyMin.toNat 0x10000 })).respond false 1) := by
  simp only [exec, execSetMax, onChannel_next hc, operandD]

theorem exec_setOnline_true :
    exec (.setOnline c true) s = .next ((reapply c (s.setChan c { s.chan c with online := true })).respond false 1) := by
  simp only [exec, execSetOnline, onChannel_next hc, if_true]

theorem exec_setOnline_false :
    exec (.setOnline c false) s = .next ((applyOff c (s.setChan c (s.chan c).offline)).respond false 1) := by
  simp only [exec, execSetOnline, onChannel_next hc, Bool.false_eq_true, if_false, chan_setChan_same, setChan_setChan,
    Channel.offline]

end

/-! ### The effect of `set_duty` and of the response (R86, R111) -/

theorem WrittenOff.respond {s t : State} {c : ChanIx} (h : WrittenOff s c t) (err : Bool) (data : Word) :
    WrittenOff s c (t.respond err data) :=
  ⟨h.pin_low, h.other_pins, h.pend, h.alarm_pc, h.alarm_cs⟩

/-- The response outputs are no part of what `set_duty` leaves. -/
theorem DutySet.respond {s t : State} {c : ChanIx} {v : Int} (h : DutySet s c v t) (err : Bool) (data : Word) :
    DutySet s c v (t.respond err data) :=
  ⟨h.duty, h.mapped, h.fire, h.config, h.modulator, fun honline he hz => (h.off honline he hz).respond err data, h.keep, h.others,
    h.frame⟩

/-- A register of the channel written, then the stored duty re-applied (R111): the whole effect of `set_duty` on the state with that
register. -/
theorem reapply_dutySet {s : State} {c : ChanIx} {x : Channel} (hb : BoundsLegal x) (err : Bool) (data : Word) :
    DutySet (s.setChan c x) c x.duty.toNat ((reapply c (s.setChan c x)).respond err data) := by
  have hset := (setDuty_dutySet (s := s.setChan c x) (c := c) x.duty.toNat (by rwa [chan_setChan_same])).1
  rw [reapply, chan_setChan_same]
  exact hset.respond err data

theorem viewBit_eq (b : Bool) : viewBit b = if b = true then 1 else 0 := by cases b <;> rfl

/-- What `set_duty` returns is read from two registers it leaves alone (R111, R113). -/
theorem DutySet.setDutyResult_eq {s t : State} {c : ChanIx} {v : Int} (h : DutySet s c v t) :
    setDutyResult c t = ((s.chan c).online && (s.chan c).enabled) := by
  obtain ⟨-, -, -, hen, honline, -⟩ := h.config
  rw [setDutyResult, applied, hen, honline]

/-- Settles O13: `set_duty` has its effect, and its result is the answer. -/
theorem setDutyEffect : Obligations.SetDutyEffect := by
  unfold Obligations.SetDutyEffect
  intro s c v hc
  refine ⟨encodedAs_setDuty hc v, fun hb => ⟨_, exec_setDuty hc v, ?_, ?_⟩⟩
  · exact (setDuty_dutySet v.toInt hb).1.respond _ _
  · simp only [Answered, respond_rsp, (setDuty_dutySet v.toInt hb).1.setDutyResult_eq, viewBit_eq, Bool.and_eq_true]

/-- Settles O14: the limit is the clamped operand, and the stored duty is re-applied under it. -/
theorem setLimitEffect : Obligations.SetLimitEffect := by
  unfold Obligations.SetLimitEffect
  intro s c v hc
  refine ⟨encodedAs_setLimit hc v, fun hb => ⟨_, _, exec_setLimit hc v, ?_, reapply_dutySet (boundsLegal_limit hb _) _ _, rfl⟩⟩
  exact clampDuty_toNat (by omega) (by omega) (by omega)

/-- Settles O15: the lower bound is the operand clamped against the upper one, and the stored duty is re-applied under it. -/
theorem setMinEffect : Obligations.SetMinEffect := by
  unfold Obligations.SetMinEffect
  intro s c v hc
  refine ⟨encodedAs_setMin hc v, fun hb => ⟨_, _, exec_setMin hc v, ?_, reapply_dutySet (boundsLegal_dutyMin hb _) _ _, rfl⟩⟩
  exact clampDuty_toNat (by omega) (by omega) (by omega)

/-- Settles O16: the upper bound is the operand clamped against the lower one, and the stored duty is re-applied under it. -/
theorem setMaxEffect : Obligations.SetMaxEffect := by
  unfold Obligations.SetMaxEffect
  intro s c v hc
  refine ⟨encodedAs_setMax hc v, fun hb => ⟨_, _, exec_setMax hc v, ?_, reapply_dutySet (boundsLegal_dutyMax hb _) _ _, rfl⟩⟩
  exact clampDuty_toNat (by omega) (by omega) (by omega)

/-! ### Going offline (R117) -/

/-- The pin of an enabled channel taken offline is written low at once. -/
theorem applyOff_offline_enabled {s : State} {c : ChanIx} (he : (s.chan c).enabled = true) :
    WrittenOff s c (applyOff c (s.setChan c (s.chan c).offline)) ∧
    (applyOff c (s.setChan c (s.chan c).offline)).chan c = { (s.chan c).offline with pend := none } := by
  obtain ⟨hoff, hchan, -⟩ := applyOff_off (s := s.setChan c (s.chan c).offline) (c := c)
    (by rwa [chan_setChan_same]) (by rw [chan_setChan_same]; rfl)
  rw [chan_setChan_same] at hchan
  exact ⟨hoff.of_setChan rfl rfl, hchan⟩

/-- A disabled channel taken offline has no pin to write. -/
theorem applyOff_offline_disabled {s : State} {c : ChanIx} (he : (s.chan c).enabled = false) :
    applyOff c (s.setChan c (s.chan c).offline) = s.setChan c (s.chan c).offline :=
  applyOff_keep (by simp [Channel.offline, he])

/-- The register file entry of a channel taken offline. -/
theorem applyOff_offline_chan (s : State) (c : ChanIx) :
    (applyOff c (s.setChan c (s.chan c).offline)).chan c =
      { s.chan c with online := false, fire := 0, pend := if (s.chan c).enabled then none else (s.chan c).pend } := by
  cases he : (s.chan c).enabled
  · rw [applyOff_offline_disabled he, chan_setChan_same]; rfl
  · rw [(applyOff_offline_enabled he).2]; rfl

/-- Settles O17: going online re-applies the stored duty, going offline is `apply(c)` with `FIRE = 0`. -/
theorem setOnlineEffect : Obligations.SetOnlineEffect := by
  unfold Obligations.SetOnlineEffect
  intro s c hc
  refine ⟨encodedAs_setOnline hc,
    fun hb => ⟨_, exec_setOnline_true hc, reapply_dutySet (x := { s.chan c with online := true }) hb _ _, rfl⟩,
    ⟨_, exec_setOnline_false hc, applyOff_offline_chan s c, fun he => ?enabled, fun he => ?disabled,
      (rewritten_offline s c).others, (rewritten_offline s c).frame, rfl⟩⟩
  case enabled => exact (applyOff_offline_enabled he).1.respond _ _
  case disabled => rw [applyOff_offline_disabled he]; exact ⟨rfl, rfl⟩

end Sys2Proof.Machine

/-! The PhaseAngleMapper (R141 to R149): its arithmetic, one function after the other from the table to `FIRE`, each with its
bounds and the direction it is monotone in, and then the effect of `SETLUT` and `SETSEMI`. `SETSEMI` runs `set_duty` on every
channel of its unit; `Reapplied` is what such a loop leaves, proved by induction on the channels visited. -/

namespace Sys2Proof.Machine

/-! ### The firing delay (R141) -/

theorem delayOf_eq (f semi : Nat) : delayOf f semi = (0x10000 - f) * semi / 0x10000 := by
  rw [delayOf, Nat.shiftRight_eq_div_pow]

theorem delayOf_le (f semi : Nat) : delayOf f semi ≤ semi := by
  rw [delayOf_eq]
  exact Nat.div_le_of_le_mul (Nat.mul_le_mul_right _ (Nat.sub_le _ _))

theorem delayOf_one (semi : Nat) : delayOf 0x10000 semi = 0 := by simp [delayOf_eq]

theorem delayOf_zero (semi : Nat) : delayOf 0 semi = semi := by
  rw [delayOf_eq]
  exact Nat.mul_div_cancel_left semi (by decide)

/-- A fire duty cycle above 0 fires before the semi-period is over. -/
theorem delayOf_lt {f semi : Nat} (hf : 0 < f) (hsemi : 1 ≤ semi) : delayOf f semi < semi := by
  rw [delayOf_eq]
  exact Nat.div_lt_of_lt_mul (Nat.mul_lt_mul_of_pos_right (by omega) hsemi)

/-- Settles O8: the shift is a division, of a product that is at most `65536 * S`, and less when `F > 0`. -/
theorem delayOfRange : Obligations.DelayOfRange := by
  unfold Obligations.DelayOfRange
  intro f semi _ _
  exact ⟨delayOf_eq f semi, delayOf_le f semi, delayOf_one semi, delayOf_zero semi,
    fun hf hsemi => Nat.le_sub_one_of_lt (delayOf_lt hf hsemi), by decide⟩

/-! ### The table (R9, R13) -/

theorem nonIncreasing_iff_isChain (l : List Ticks) : nonIncreasing l = true ↔ l.IsChain (fun a b => b ≤ a) := by
  induction l with
  | nil => simp [nonIncreasing]
  | cons a l ih =>
    cases l with
    | nil => simp [nonIncreasing]
    | cons b l => rw [nonIncreasing, Bool.and_eq_true, ih, List.isChain_cons_cons, decide_eq_true_eq]

theorem lutEntry_of_lt (t : FiringDelayTable) {i : Nat} (h : i < 80) : lutEntry t i = (t.entries[i]'h).toNat := by
  simp [lutEntry, h]

theorem lutEntry_of_ge (t : FiringDelayTable) {i : Nat} (h : 80 ≤ i) : lutEntry t i = 0 := by
  simp [lutEntry, h]

theorem lutEntry_lt (t : FiringDelayTable) (i : Nat) : lutEntry t i < 0x10000 := BitVec.isLt _

/-- A legal table never increases (R9). -/
theorem lutEntry_antitone (t : FiringDelayTable) : Antitone (lutEntry t) := by
  refine antitone_nat_of_succ_le fun i => ?_
  by_cases hi : i + 1 < 80
  · have hchain := List.isChain_iff_getElem.1 ((nonIncreasing_iff_isChain _).1 t.legal) i (by simpa using hi)
    rw [lutEntry_of_lt t hi, lutEntry_of_lt t (Nat.lt_of_succ_lt hi)]
    simpa [BitVec.le_def] using hchain
  · rw [lutEntry_of_ge t (Nat.le_of_not_lt hi)]
    exact Nat.zero_le _

/-! ### The interpolation (R142, R143) -/

/-- The value at the fraction `frac` of the way from entry `a` down to entry `b` (R143). -/
def interpolate (a b frac : Nat) : Nat := a - (a - b) * frac / 0x10000

theorem lutValue_eq (t : FiringDelayTable) (m : Nat) : lutValue t m =
    interpolate (lutEntry t (m * 79 / 0x10000)) (lutEntry t (m * 79 / 0x10000 + 1)) (m * 79 % 0x10000) := by
  simp only [lutValue, lutSlot, interpolate, Nat.shiftRight_eq_div_pow, Nat.reducePow]

theorem interpolate_le (a b frac : Nat) : interpolate a b frac ≤ a := Nat.sub_le _ _

section
variable {a b : Nat}

/-- The step down is at most the whole difference of the entries. -/
theorem interpolate_drop_le {frac : Nat} (hfrac : frac < 0x10000) : (a - b) * frac / 0x10000 ≤ a - b :=
  Nat.div_le_of_le_mul (by rw [Nat.mul_comm]; exact Nat.mul_le_mul_right _ hfrac.le)

theorem le_interpolate {frac : Nat} (hba : b ≤ a) (hfrac : frac < 0x10000) : b ≤ interpolate a b frac := by
  have := interpolate_drop_le (a := a) (b := b) hfrac
  unfold interpolate
  omega

/-- The value is still the upper entry exactly while the step down rounds to 0. -/
theorem interpolate_eq_left_iff {frac : Nat} (hfrac : frac < 0x10000) :
    interpolate a b frac = a ↔ (a - b) * frac < 0x10000 := by
  have := interpolate_drop_le (a := a) (b := b) hfrac
  unfold interpolate
  omega

theorem interpolate_antitone : Antitone (interpolate a b) := fun _ _ h =>
  Nat.sub_le_sub_left (Nat.div_le_div_right (Nat.mul_le_mul_left _ h)) a

end

theorem lutValue_lt (t : FiringDelayTable) (m : Nat) : lutValue t m < 0x10000 := by
  rw [lutValue_eq]
  exact (interpolate_le _ _ _).trans_lt (lutEntry_lt t _)

/-- The interpolated delay never increases with the duty cycle: within one interval by the fraction, and from one interval to a
later one because it stays between the entries (R147). -/
theorem lutValue_antitone (t : FiringDelayTable) : Antitone (lutValue t) := by
  intro m n hmn
  have hslot : m * 79 ≤ n * 79 := Nat.mul_le_mul_right _ hmn
  rw [lutValue_eq, lutValue_eq]
  obtain hidx | hidx := Nat.eq_or_lt_of_le (Nat.div_le_div_right (c := 0x10000) hslot)
  · rw [← hidx]
    exact interpolate_antitone (by omega)
  · calc interpolate (lutEntry t (n * 79 / 0x10000)) _ (n * 79 % 0x10000)
      _ ≤ lutEntry t (n * 79 / 0x10000) := interpolate_le _ _ _
      _ ≤ lutEntry t (m * 79 / 0x10000 + 1) := lutEntry_antitone t hidx
      _ ≤ interpolate (lutEntry t (m * 79 / 0x10000)) _ (m * 79 % 0x10000) :=
        le_interpolate (lutEntry_antitone t (Nat.le_succ _)) (Nat.mod_lt _ (by decide))

/-- Settles O9: the index and the fraction are the quotient and the remainder of `M * 79` by 65536. -/
theorem interpolationBracketed : Obligations.InterpolationBracketed := by
  unfold Obligations.InterpolationBracketed
  intro t m _ hm
  have hidx : m * 79 / 0x10000 < 79 := by omega
  have hfrac : m * 79 % 0x10000 < 0x10000 := Nat.mod_lt _ (by decide)
  refine ⟨⟨m * 79 / 0x10000, hidx⟩, m * 79 % 0x10000, (Nat.div_add_mod' _ _).symm, hfrac, ?_⟩
  have hba := lutEntry_antitone t (Nat.le_succ (m * 79 / 0x10000))
  dsimp only
  rw [← lutEntry_of_lt t (by omega), ← lutEntry_of_lt t (by omega), lutValue_eq]
  exact ⟨hba, rfl, le_interpolate hba hfrac, interpolate_le _ _ _, interpolate_eq_left_iff hfrac⟩

/-! ### The delay and its fire duty cycle (R144, R145) -/

theorem delayUs_eq (v semi : Nat) : delayUs v semi = (v * semi + 0x8000) / 0x10000 := by
  rw [delayUs, Nat.shiftRight_eq_div_pow]

theorem delayUs_mono {v w : Nat} (h : v ≤ w) (semi : Nat) : delayUs v semi ≤ delayUs w semi := by
  rw [delayUs_eq, delayUs_eq]
  exact Nat.div_le_div_right (Nat.add_le_add_right (Nat.mul_le_mul_right _ h) _)

theorem delayUs_le {v : Nat} (hv : v < 0x10000) (semi : Nat) : delayUs v semi ≤ semi := by
  have hprod : v * semi ≤ 0xFFFF * semi := Nat.mul_le_mul_right _ (by omega)
  rw [delayUs_eq]
  omega

theorem ceilDiv_mono {a b : Nat} (h : a ≤ b) (d : Nat) : ceilDiv a d ≤ ceilDiv b d := by
  unfold ceilDiv
  exact Nat.div_le_div_right (by omega)

/-- `ceil_div` is the quotient rounded up: the least multiple of the divisor that is not below the dividend (R10). -/
theorem ceilDiv_mul_bounds {a d : Nat} (hd : 0 < d) : a ≤ ceilDiv a d * d ∧ ceilDiv a d * d < a + d := by
  unfold ceilDiv
  have hle := Nat.div_mul_le_self (a + d - 1) d
  have hlt := Nat.lt_div_mul_add (a := a + d - 1) hd
  omega

theorem fireOfDelay_eq (delay semi : Nat) : fireOfDelay delay semi = 0x10000 - ceilDiv (delay * 0x10000) semi := by
  rw [fireOfDelay, Nat.shiftLeft_eq]

theorem fireOfDelay_antitone {d e : Nat} (h : d ≤ e) (semi : Nat) : fireOfDelay e semi ≤ fireOfDelay d semi := by
  rw [fireOfDelay_eq, fireOfDelay_eq]
  exact Nat.sub_le_sub_left (ceilDiv_mono (Nat.mul_le_mul_right _ h) semi) _

section
variable {semi delay : Nat} (hsemi : 1 ≤ semi) (hdelay : delay ≤ semi)
include hsemi hdelay

/-- The quotient that R145 takes from 1.0 is at most 1.0. -/
theorem ceilDiv_delay_le : ceilDiv (delay * 0x10000) semi ≤ 0x10000 := by
  have hlt := (ceilDiv_mul_bounds (a := delay * 0x10000) hsemi).2
  refine Nat.le_of_lt_succ (Nat.lt_of_mul_lt_mul_right (a := semi) ?_)
  omega

/-- The quotient rounded up, times `S`, exceeds `delay * 65536` by less than `S < 65536`, which rounding down takes off again
(R145). -/
theorem delayOf_fireOfDelay (hsemi' : semi ≤ 0xFFFF) : delayOf (fireOfDelay delay semi) semi = delay := by
  have hq := ceilDiv_delay_le hsemi hdelay
  have hbounds := ceilDiv_mul_bounds (a := delay * 0x10000) hsemi
  rw [delayOf_eq, fireOfDelay_eq, Nat.sub_sub_self hq]
  omega

end

/-- Settles O10: with the quotient of R145, which `ceilDiv_mul_bounds` pins down. -/
theorem delayRoundTrip : Obligations.DelayRoundTrip := by
  unfold Obligations.DelayRoundTrip
  intro semi delay hsemi hsemi' hdelay
  obtain ⟨hge, hlt⟩ := ceilDiv_mul_bounds (a := delay * 0x10000) hsemi
  exact ⟨⟨_, ceilDiv_delay_le hsemi hdelay, fireOfDelay_eq delay semi, hge, hlt⟩, delayOf_fireOfDelay hsemi hdelay hsemi'⟩

/-! ### The lookup (R146, R147) -/

theorem lutFire_zero (t : FiringDelayTable) (semi : Nat) : lutFire t 0 semi = 0 := if_pos rfl

theorem lutFire_one (t : FiringDelayTable) {m : Nat} (semi : Nat) (h : 0x10000 ≤ m) : lutFire t m semi = 0x10000 := by
  rw [lutFire, if_neg (by omega), if_pos h]

theorem lutFire_between (t : FiringDelayTable) {m : Nat} (semi : Nat) (h0 : 0 < m) (h1 : m < 0x10000) :
    lutFire t m semi = fireOfDelay (delayUs (lutValue t m) semi) semi := by
  rw [lutFire, if_neg (by omega), if_neg (by omega)]

/-- Settles O11: the delay of R144 is at most `S`, so that it survives the round trip of R145. -/
theorem lutFireRecoversDelay : Obligations.LutFireRecoversDelay := by
  unfold Obligations.LutFireRecoversDelay
  intro t m semi hsemi hsemi'
  refine ⟨lutFire_zero t semi, lutFire_one t semi, lutFire_le t m semi, fun h0 h1 => ?_⟩
  have hdelay := delayUs_le (lutValue_lt t m) semi
  rw [← delayUs_eq, lutFire_between t semi h0 h1]
  exact ⟨hdelay, rfl, delayOf_fireOfDelay hsemi hdelay hsemi'⟩

/-- The lookup never decreases (R147): the exact ends bound it, and between them it reverses the table's order twice. -/
theorem lutFire_mono (t : FiringDelayTable) {m n : Nat} (h : m ≤ n) (semi : Nat) : lutFire t m semi ≤ lutFire t n semi := by
  obtain rfl | hm := Nat.eq_zero_or_pos m
  · rw [lutFire_zero]; exact Nat.zero_le _
  obtain hn | hn := Nat.lt_or_ge n 0x10000
  · rw [lutFire_between t semi hm (by omega), lutFire_between t semi (by omega) hn]
    exact fireOfDelay_antitone (delayUs_mono (lutValue_antitone t h) semi) semi
  · rw [lutFire_one t semi hn]; exact lutFire_le t m semi

/-! ### `FIRE` and the operand of `set_duty` (R147) -/

section
variable {s t : State} {c : ChanIx} {v : Int} (h : DutySet s c v t)
include h

/-- `set_duty` leaves unit PC's semi-period and counter. -/
theorem DutySet.upc_frame : t.upc.semi = s.upc.semi ∧ t.upc.count = s.upc.count := by
  by_cases hoff : (s.chan c).online = true ∧ (s.chan c).enabled = true ∧ (t.chan c).fire = 0
  · exact (h.off hoff.1 hoff.2.1 hoff.2.2).upc_frame
  · obtain ⟨-, -, hupc⟩ := h.keep hoff
    rw [hupc]; exact ⟨rfl, rfl⟩

theorem DutySet.semi (u : UnitId) : t.semi u = s.semi u := by
  obtain ⟨-, -, -, hucs, -⟩ := h.frame
  exact semi_congr h.upc_frame.1 (by rw [hucs]) u

/-- `MAPPED` in terms of the bounds before (R112). -/
theorem DutySet.mapped_eq : (t.chan c).mapped.toNat =
    remap (t.chan c).duty.toNat (s.chan c).dutyMin.toNat (s.chan c).dutyMax.toNat := by
  obtain ⟨-, hmin, hmax, -⟩ := h.config
  rw [remap_eq, ← hmin, ← hmax]
  exact h.mapped

/-- `FIRE` in terms of the mode, the table and the semi-period before (R26). -/
theorem DutySet.fire_eq : (t.chan c).fire.toNat =
    if (s.chan c).online = false then 0
    else if (s.chan c).lutEn = false then (t.chan c).mapped.toNat
    else lutFire s.lut (t.chan c).mapped.toNat (s.semi (s.chan c).mode).toNat := by
  obtain ⟨-, -, -, -, honline, hlutEn, hmode, -⟩ := h.config
  obtain ⟨-, hlut, -⟩ := h.frame
  obtain ⟨hoff, hlinear, htable⟩ := h.fire
  rw [honline] at hoff hlinear htable
  rw [hlutEn] at hlinear htable
  rw [hlut, h.semi, hmode] at htable
  split
  · next ho => rw [hoff ho]; rfl
  next ho =>
    split
    · next hl => rw [hlinear (by simpa using ho) hl]
    · next hl => exact htable (by simpa using ho) (by simpa using hl)

/-- A larger operand leaves no smaller `DUTY`, `MAPPED` or `FIRE`: each is monotone in the one before it. -/
theorem DutySet.fire_mono {w : Int} {u : State} (h' : DutySet s c w u) (hvw : v ≤ w) :
    (t.chan c).fire.toNat ≤ (u.chan c).fire.toNat := by
  have hduty : (t.chan c).duty.toNat ≤ (u.chan c).duty.toNat := by
    have ht := h.duty
    have hu := h'.duty
    omega
  have hmapped : (t.chan c).mapped.toNat ≤ (u.chan c).mapped.toNat := by
    rw [h.mapped_eq, h'.mapped_eq]
    exact remap_mono hduty _ _
  rw [h.fire_eq, h'.fire_eq]
  split
  · exact le_rfl
  split
  · exact hmapped
  · exact lutFire_mono _ hmapped _

end

/-- Settles O12: `lutFire_mono`, and through `set_duty` with `DutySet.fire_mono`. -/
theorem fireMonotoneInDuty : Obligations.FireMonotoneInDuty := by
  unfold Obligations.FireMonotoneInDuty
  refine ⟨fun t m n semi _ _ hmn _ => lutFire_mono t hmn semi, fun s t u c v w hc hb _ hvw ht hu => ?_⟩
  rw [exec_setDuty hc] at ht hu
  cases ht
  cases hu
  exact ((setDuty_dutySet v.toInt hb).1.respond _ _).fire_mono ((setDuty_dutySet w.toInt hb).1.respond _ _) hvw

/-! ### `SETLUT` (R148) -/

theorem encodedAs_setLut {nCh : Nat} {c : ChanIx} (hc : c.val < nCh) (b : Bool) :
    EncodedAs nCh (.setLut c b) (0x8 * 2 ^ 28 + c.val * 2 ^ 24 + b.toNat) :=
  encodedAs_formatB (mk := .setLut) (fun _ _ _ _ h => Instr.setLut.inj h) (fun _ _ => rfl)
    (fun w hw => by simp only [decode, hw]) hc b

theorem raise_configLut (s : State) : s.raise .configLut = refusedBy 4 s := rfl

theorem exec_setLut_refused {s : State} {c : ChanIx} (hc : c.val < s.params.nCh) (hsemi : s.semi (s.chan c).mode = 0) :
    exec (.setLut c true) s = .next (refusedBy 4 s) := by
  simp only [exec, execSetLut, onChannel_next hc, hsemi, decide_true, Bool.and_self, if_true, raise_configLut]

theorem exec_setLut_accepted {s : State} {c : ChanIx} {b : Bool} (hc : c.val < s.params.nCh)
    (hok : ¬ (b = true ∧ s.semi (s.chan c).mode = 0)) :
    exec (.setLut c b) s = .next ((reapply c (s.setChan c { s.chan c with lutEn := b })).respond false 1) := by
  simp only [exec, execSetLut, onChannel_next hc, Bool.and_eq_true, decide_eq_true_eq, if_neg hok]

/-- Settles O19: the flag is one register of the channel, so an accepted command is `reapply_dutySet`. -/
theorem setLutEffect : Obligations.SetLutEffect := by
  unfold Obligations.SetLutEffect
  intro s c b hc
  refine ⟨encodedAs_setLut hc b, ?refused, fun hok hb =>
    ⟨_, exec_setLut_accepted hc hok, reapply_dutySet (x := { s.chan c with lutEn := b }) hb _ _, rfl⟩⟩
  rintro rfl hsemi
  exact exec_setLut_refused hc hsemi

/-! ### One channel re-applied -/

/-- `set_duty` wrote a channel off in taking it from `a` to `b`: registered, online, and `FIRE` is now 0 (R111, R113). -/
abbrev TurnedOff (a b : Channel) : Prop := a.online = true ∧ a.enabled = true ∧ b.fire = 0

section
variable {s t : State} {c : ChanIx} {v : Int} (h : DutySet s c v t)
include h

theorem DutySet.writtenOff (hoff : TurnedOff (s.chan c) (t.chan c)) : WrittenOff s c t := h.off hoff.1 hoff.2.1 hoff.2.2

theorem DutySet.sameRegistration : SameRegistration s t := by
  refine ⟨h.frame.1, fun k => ?_⟩
  by_cases hk : k = c
  · subst hk
    obtain ⟨-, -, -, hen, -, -, hmode, hpin⟩ := h.config
    exact ⟨hen, hmode, hpin⟩
  · rw [h.others k hk]; exact ⟨rfl, rfl, rfl⟩

/-- No pin but that of a channel written off changes. -/
theorem DutySet.pin_eq {q : BitVec 8} (hq : TurnedOff (s.chan c) (t.chan c) → (s.chan c).pinsel ≠ q) : t.pin q = s.pin q := by
  by_cases hoff : TurnedOff (s.chan c) (t.chan c)
  · exact (h.writtenOff hoff).other_pins q (hq hoff).symm
  · exact pin_congr h.frame.1 (h.keep hoff).2.1 q

/-- Unit PC is as before unless one of its channels was written off. -/
theorem DutySet.upc_eq (hcs : TurnedOff (s.chan c) (t.chan c) → (s.chan c).mode = .cs) : t.upc = s.upc := by
  by_cases hoff : TurnedOff (s.chan c) (t.chan c)
  · exact (h.writtenOff hoff).alarm_cs (hcs hoff)
  · exact (h.keep hoff).2.2

/-- The same PC channels wait as before unless one was written off. -/
theorem DutySet.pending_iff (hcs : TurnedOff (s.chan c) (t.chan c) → (s.chan c).mode = .cs) (k : ChanIx) (x : Ticks) :
    Pending t k x ↔ Pending s k x := by
  rw [Pending, h.sameRegistration.inUnit, Pending, and_congr_right_iff]
  intro hk
  by_cases hkc : k = c
  · subst hkc
    rw [(h.keep fun hoff => absurd (hk.2.2.symm.trans (hcs hoff)) (by decide)).1]
  · rw [h.others k hkc]

/-- The alarm is right after `set_duty` if it was right before: recomputed, or about the same delays. -/
theorem DutySet.alarmLeast (hl : AlarmLeast s) : AlarmLeast t := by
  by_cases hoff : TurnedOff (s.chan c) (t.chan c) ∧ (s.chan c).mode = .pc
  · exact ((h.writtenOff hoff.1).alarm_pc hoff.2).1
  · have hcs (hturned : TurnedOff (s.chan c) (t.chan c)) : (s.chan c).mode = .cs := by
      cases hm : (s.chan c).mode
      · exact absurd ⟨hturned, hm⟩ hoff
      · rfl
    have hupc := h.upc_eq hcs
    exact alarmLeast_congr hl (h.pending_iff hcs) (by rw [hupc]) (by rw [hupc])

end

/-- Re-applying a channel's own stored duty leaves it as R149 says. -/
theorem DutySet.semiApplied {s t : State} {c : ChanIx} (h : DutySet s c (s.chan c).duty.toNat t) : SemiApplied s t c := by
  obtain ⟨hlimit, hmin, hmax, hen, honline, hlut, hmode, hpin⟩ := h.config
  obtain ⟨hdebt, hbal⟩ := h.modulator
  have hduty := h.duty
  exact ⟨by omega, h.mapped, h.fire, ⟨hlimit, hmin, hmax, hen, honline, hlut, hmode, hpin, hdebt, hbal⟩,
    fun ho he hz => (h.off ho he hz).pend, fun hkeep => (h.keep hkeep).1⟩

/-- `SemiApplied` reads the channel in both states, and of the rest the table and the semi-periods. -/
theorem SemiApplied.congr {s s' t t' : State} {c : ChanIx} (h : SemiApplied s t c) (hs : s'.chan c = s.chan c)
    (ht : t'.chan c = t.chan c) (hlut : t'.lut = t.lut) (hsemi : ∀ u, t'.semi u = t.semi u) : SemiApplied s' t' c := by
  obtain ⟨hduty, hmapped, hfire, hkept, hoff, hkeep⟩ := h
  rw [← ht] at hduty hmapped hfire hkept hoff hkeep
  rw [← hs] at hduty hkept hoff hkeep
  exact ⟨hduty, hmapped, by simpa only [IsFire, hlut, hsemi] using hfire, hkept, hoff, hkeep⟩

/-! ### Every channel of a list re-applied -/

/-- `t` is `s` with the channels of `l` re-applied, one after the other. -/
structure Reapplied (l : List ChanIx) (s t : State) : Prop where
  visited : ∀ c ∈ l, SemiApplied s t c
  others : ∀ c, c ∉ l → t.chan c = s.chan c
  pins_low : ∀ c ∈ l, TurnedOff (s.chan c) (t.chan c) → t.pin (s.chan c).pinsel = false
  pins_kept : ∀ q, (∀ c ∈ l, TurnedOff (s.chan c) (t.chan c) → (s.chan c).pinsel ≠ q) → t.pin q = s.pin q
  alarm_kept : AlarmLeast s → AlarmLeast t
  alarm : (∃ c ∈ l, TurnedOff (s.chan c) (t.chan c) ∧ (s.chan c).mode = .pc) → AlarmLeast t
  upc_kept : (∀ c ∈ l, TurnedOff (s.chan c) (t.chan c) → (s.chan c).mode = .cs) → t.upc = s.upc
  upc_frame : t.upc.semi = s.upc.semi ∧ t.upc.count = s.upc.count
  frame : SameSurroundings s t

theorem reapplied_nil (s : State) : Reapplied [] s s where
  visited := by simp
  others _ _ := rfl
  pins_low := by simp
  pins_kept _ _ := rfl
  alarm_kept := id
  alarm := by simp
  upc_kept _ := rfl
  upc_frame := ⟨rfl, rfl⟩
  frame := ⟨rfl, rfl, rfl, rfl, rfl⟩

theorem Reapplied.semi {l : List ChanIx} {s t : State} (h : Reapplied l s t) (u : UnitId) : t.semi u = s.semi u := by
  obtain ⟨-, -, -, hucs, -⟩ := h.frame
  exact semi_congr h.upc_frame.1 (by rw [hucs]) u

/-- No pin rises when channels are re-applied. -/
theorem Reapplied.pin_low {l : List ChanIx} {s t : State} (h : Reapplied l s t) {q : BitVec 8} (hq : s.pin q = false) :
    t.pin q = false := by
  by_cases hoff : ∃ c ∈ l, TurnedOff (s.chan c) (t.chan c) ∧ (s.chan c).pinsel = q
  · obtain ⟨c, hc, hturned, rfl⟩ := hoff
    exact h.pins_low c hc hturned
  · rw [h.pins_kept q fun c hc hturned hpin => hoff ⟨c, hc, hturned, hpin⟩, hq]

/-- One channel more, re-applied before the others: the others find theirs as they were, and leave it as it is. -/
theorem DutySet.reapplied_cons {a : ChanIx} {l : List ChanIx} {s s1 t : State} (ha : a ∉ l)
    (h : DutySet s a (s.chan a).duty.toNat s1) (hl : Reapplied l s1 t) : Reapplied (a :: l) s t := by
  have first : t.chan a = s1.chan a := hl.others a ha
  have rest {c : ChanIx} (hc : c ∈ l) : s1.chan c = s.chan c := h.others c fun hca => ha (hca ▸ hc)
  obtain ⟨hparams, hlut, hflags, hucs, hinputs⟩ := h.frame
  obtain ⟨hparams', hlut', hflags', hucs', hinputs'⟩ := hl.frame
  refine ⟨?visited, ?others, ?pins_low, ?pins_kept, fun hs => hl.alarm_kept (h.alarmLeast hs), ?alarm, ?upc_kept,
    ⟨hl.upc_frame.1.trans h.upc_frame.1, hl.upc_frame.2.trans h.upc_frame.2⟩,
    hparams'.trans hparams, hlut'.trans hlut, hflags'.trans hflags, hucs'.trans hucs, hinputs'.trans hinputs⟩
  case visited =>
    refine List.forall_mem_cons.2 ⟨h.semiApplied.congr rfl first hlut' hl.semi, fun c hc => ?_⟩
    exact (hl.visited c hc).congr (rest hc).symm rfl rfl fun _ => rfl
  case others =>
    intro c hc
    obtain ⟨hca, hcl⟩ := List.ne_and_not_mem_of_not_mem_cons hc
    rw [hl.others c hcl, h.others c hca]
  case pins_low =>
    refine List.forall_mem_cons.2 ⟨fun hoff => ?_, fun c hc => ?_⟩
    · rw [first] at hoff
      exact hl.pin_low (h.writtenOff hoff).pin_low
    · rw [← rest hc]; exact hl.pins_low c hc
  case pins_kept =>
    intro q hq
    obtain ⟨hqa, hql⟩ := List.forall_mem_cons.1 hq
    rw [hl.pins_kept q fun c hc => by rw [rest hc]; exact hql c hc, h.pin_eq (first ▸ hqa)]
  case alarm =>
    rintro ⟨c, hc, hoff, hm⟩
    obtain rfl | hc := List.mem_cons.1 hc
    · rw [first] at hoff
      exact hl.alarm_kept ((h.writtenOff hoff).alarm_pc hm).1
    · rw [← rest hc] at hoff hm
      exact hl.alarm ⟨c, hc, hoff, hm⟩
  case upc_kept =>
    intro hcs
    obtain ⟨hcsa, hcsl⟩ := List.forall_mem_cons.1 hcs
    rw [hl.upc_kept fun c hc => by rw [rest hc]; exact hcsl c hc, h.upc_eq (first ▸ hcsa)]

/-- The loop of `SETSEMI` over channels with legal bounds (R149). -/
theorem reapplied_forChans {l : List ChanIx} {s : State} (hl : l.Nodup) (hb : ∀ c ∈ l, BoundsLegal (s.chan c)) :
    Reapplied l s (forChans l reapply s) := by
  induction l generalizing s with
  | nil => exact reapplied_nil s
  | cons a l ih =>
    obtain ⟨ha, hl⟩ := List.nodup_cons.1 hl
    obtain ⟨hba, hbl⟩ := List.forall_mem_cons.1 hb
    have hset : DutySet s a (s.chan a).duty.toNat (reapply a s) := (setDuty_dutySet _ hba).1
    refine hset.reapplied_cons ha (ih hl fun c hc => ?_)
    rw [hset.others c fun hca => ha (hca ▸ hc)]
    exact hbl c hc

/-! ### `SETSEMI` (R149) -/

/-- The `ch` field of a unit command is legal and names the unit exactly when it is the unit's number (R13, R88 test 3). -/
theorem unitField_eq_iff {w : Word} {u : UnitId} :
    (chField w).toNat ≤ 1 ∧ UnitId.ofCode ((chField w).getLsbD 0) = u ↔ (chField w).toNat = unitCode u := by
  generalize chField w = ch
  cases u <;> revert ch <;> decide

/-- The word of `SETSEMI` (R82, format `S`): the unit in `ch`, 16 bits of operand. -/
theorem encodedAs_setSemi (nCh : Nat) (u : UnitId) (p : Ticks) :
    EncodedAs nCh (.setSemi u p) (0x9 * 2 ^ 28 + unitCode u * 2 ^ 24 + p.toNat) := by
  intro w
  have operand_iff : (immField w).toNat < 2 ^ 16 ∧ (immField w).extractLsb' 0 16 = p ↔ (immField w).toNat = p.toNat := by
    rw [← BitVec.toNat_inj, BitVec.extractLsb'_toNat, Nat.shiftRight_zero]
    omega
  have hdecode (hw : (opField w).toNat = 0x9) : decode nCh w =
      withUnit w fun u => withReserved 16 w <| .ok (.setSemi u ((immField w).extractLsb' 0 16)) := by
    simp only [decode, hw]
  rw [toNat_eq_fields (by cases u <;> decide) (by omega), ← operand_iff, ← unitField_eq_iff]
  constructor
  · intro h
    have hw := opField_of_decode h
    rw [hdecode hw, withUnit_eq_ok, withReserved_eq_ok, Except.ok.injEq] at h
    obtain ⟨hch, hreserved, h⟩ := h
    obtain ⟨hunit, hp⟩ := Instr.setSemi.inj h
    exact ⟨hw, ⟨hch, hunit⟩, hreserved, hp⟩
  · rintro ⟨hw, ⟨hch, hunit⟩, hreserved, hp⟩
    rw [hdecode hw, withUnit_eq_ok, withReserved_eq_ok, hunit, hp]
    exact ⟨hch, hreserved, rfl⟩

theorem exec_setSemi_refused {s : State} {u : UnitId} (hused : lutInUse u s = true) :
    exec (.setSemi u 0) s = .next (refusedBy 4 s) := by
  simp only [exec, execSetSemi, hused, decide_true, Bool.and_self, if_true, raise_configLut]

theorem exec_setSemi_accepted {s : State} {u : UnitId} {p : Ticks} (hok : ¬ (p = 0 ∧ lutInUse u s = true)) :
    exec (.setSemi u p) s = .next ((storeSemi u p s).respond false 1) := by
  simp only [exec, execSetSemi, Bool.and_eq_true, decide_eq_true_eq, if_neg hok]

/-! The unit whose semi-period is not written stays whole, and what else `semiWritten` leaves alone. -/

theorem semiWritten_pc_ucs (p : Ticks) (s : State) : (semiWritten .pc p s).ucs = s.ucs := by simp [semiWritten]

theorem semiWritten_cs_upc (p : Ticks) (s : State) : (semiWritten .cs p s).upc = s.upc := by
  unfold semiWritten
  split <;> simp

theorem semiWritten_inputs (u : UnitId) (p : Ticks) (s : State) : (semiWritten u p s).inputs = s.inputs := by
  unfold semiWritten
  split <;> simp

theorem semiWritten_pol (u : UnitId) (p : Ticks) (s : State) : (semiWritten u p s).ucs.pol = s.ucs.pol := by
  unfold semiWritten
  split <;> cases u <;> simp

/-- The channels of the unit, re-applied after the unit registers are written. -/
theorem reapplied_storeSemi {u : UnitId} {s : State} (p : Ticks)
    (hb : ∀ c : ChanIx, c.val < s.params.nCh → (s.chan c).mode = u → BoundsLegal (s.chan c)) :
    Reapplied (s.modeChans u) (semiWritten u p s) (storeSemi u p s) := by
  have hf := semiWritten_sameFile u p s
  have hmode : (semiWritten u p s).modeChans u = s.modeChans u := by
    simp only [State.modeChans, hasChan_eq, hf.params, hf.chans]
  rw [storeSemi_eq, hmode]
  refine reapplied_forChans (nodup_modeChans s u) fun c hc => ?_
  obtain ⟨hlt, hm⟩ := mem_modeChans.1 hc
  rw [hf.chans]
  exact hb c hlt hm

/-- The channels `SETSEMI` writes off are the channels of its loop that `set_duty` turns off. -/
theorem semiOff_iff {s t : State} {u : UnitId} {c : ChanIx} :
    SemiOff s t u c ↔ c ∈ s.modeChans u ∧ TurnedOff (s.chan c) (t.chan c) := by
  rw [mem_modeChans]
  unfold SemiOff InUnit TurnedOff
  tauto

section
variable {s : State} {u : UnitId} {p : Ticks}
  (hb : ∀ c : ChanIx, c.val < s.params.nCh → (s.chan c).mode = u → BoundsLegal (s.chan c))
include hb

theorem storeSemi_semi : (storeSemi u p s).semi u = p := by
  rw [(reapplied_storeSemi p hb).semi, semiWritten_semi, if_pos rfl]

theorem storeSemi_semiApplied {c : ChanIx} (hc : c.val < s.params.nCh) (hm : (s.chan c).mode = u) :
    SemiApplied s (storeSemi u p s) c :=
  ((reapplied_storeSemi p hb).visited c (mem_modeChans.2 ⟨hc, hm⟩)).congr ((semiWritten_sameFile u p s).chans c).symm rfl rfl
    fun _ => rfl

theorem storeSemi_chan_other {c : ChanIx} (hc : ¬ (c.val < s.params.nCh ∧ (s.chan c).mode = u)) :
    (storeSemi u p s).chan c = s.chan c := by
  rw [(reapplied_storeSemi p hb).others c (mt mem_modeChans.1 hc), (semiWritten_sameFile u p s).chans]

theorem storeSemi_pin_low {c : ChanIx} (hoff : SemiOff s (storeSemi u p s) u c) :
    (storeSemi u p s).pin (s.chan c).pinsel = false := by
  obtain ⟨hc, hturned⟩ := semiOff_iff.1 hoff
  have hlow := (reapplied_storeSemi p hb).pins_low c hc
  rw [(semiWritten_sameFile u p s).chans] at hlow
  exact hlow hturned

theorem storeSemi_pin_kept {q : BitVec 8} (hq : ¬ ∃ c, SemiOff s (storeSemi u p s) u c ∧ (s.chan c).pinsel = q) :
    (storeSemi u p s).pin q = s.pin q := by
  have hf := semiWritten_sameFile u p s
  rw [(reapplied_storeSemi p hb).pins_kept q, hf.pin]
  intro c hc hturned hpin
  rw [hf.chans] at hturned hpin
  exact hq ⟨c, semiOff_iff.2 ⟨hc, hturned⟩, hpin⟩

/-- With a PC channel written off the alarm is recomputed. -/
theorem storeSemi_alarmLeast (hu : u = .pc) (hoff : ∃ c, SemiOff s (storeSemi u p s) u c) : AlarmLeast (storeSemi u p s) := by
  obtain ⟨c, hoff⟩ := hoff
  obtain ⟨hc, hturned⟩ := semiOff_iff.1 hoff
  refine (reapplied_storeSemi p hb).alarm ⟨c, hc, ?_⟩
  rw [(semiWritten_sameFile u p s).chans]
  exact ⟨hturned, (mem_modeChans.1 hc).2.trans hu⟩

/-- With no PC channel written off unit PC is as `SETSEMI` wrote it. -/
theorem storeSemi_upc_kept (hno : u = .pc → ¬ ∃ c, SemiOff s (storeSemi u p s) u c) :
    (storeSemi u p s).upc = (semiWritten u p s).upc := by
  refine (reapplied_storeSemi p hb).upc_kept fun c hc hturned => ?_
  rw [(semiWritten_sameFile u p s).chans] at hturned ⊢
  cases u
  · exact absurd ⟨c, semiOff_iff.2 ⟨hc, hturned⟩⟩ (hno rfl)
  · exact (mem_modeChans.1 hc).2

theorem storeSemi_upc_count : (storeSemi u p s).upc.count = s.upc.count := by
  obtain ⟨-, -, hcount, -⟩ := semiWritten_frame u p s
  exact (reapplied_storeSemi p hb).upc_frame.2.trans hcount

theorem storeSemi_ucs : (storeSemi u p s).ucs = (semiWritten u p s).ucs := by
  obtain ⟨-, -, -, hucs, -⟩ := (reapplied_storeSemi p hb).frame
  exact hucs

theorem storeSemi_frame : (storeSemi u p s).params = s.params ∧ (storeSemi u p s).lut = s.lut ∧
    (storeSemi u p s).errFlags = s.errFlags ∧ (storeSemi u p s).inputs = s.inputs := by
  obtain ⟨hlut, hflags, -⟩ := semiWritten_frame u p s
  obtain ⟨hparams', hlut', hflags', -, hinputs'⟩ := (reapplied_storeSemi p hb).frame
  exact ⟨hparams'.trans (semiWritten_sameFile u p s).params, hlut'.trans hlut, hflags'.trans hflags,
    hinputs'.trans (semiWritten_inputs u p s)⟩

end

/-- Settles O20: an accepted command writes the unit registers (`semiWritten`) and then re-applies the unit's channels
(`reapplied_storeSemi`). -/
theorem setSemiEffect : Obligations.SetSemiEffect := by
  unfold Obligations.SetSemiEffect
  intro s u p
  simp only [← lutInUse_iff]
  refine ⟨encodedAs_setSemi _ u p, ?refused, fun hok hb => ⟨_, exec_setSemi_accepted hok, rfl, storeSemi_semi hb,
    fun c hc hm => ?applied, fun c hc => storeSemi_chan_other hb hc, ?pins_low, fun q hq => storeSemi_pin_kept hb hq, ?pc, ?cs,
    storeSemi_frame hb⟩⟩
  case refused =>
    rintro rfl hused
    exact exec_setSemi_refused hused
  case applied => exact (storeSemi_semiApplied hb hc hm).congr rfl rfl rfl fun _ => rfl
  case pins_low =>
    rintro q ⟨c, hoff, rfl⟩
    exact storeSemi_pin_low hb hoff
  case pc =>
    rintro rfl
    refine ⟨(storeSemi_ucs hb).trans (semiWritten_pc_ucs p s), storeSemi_upc_count hb, storeSemi_alarmLeast hb rfl, fun hno => ?_⟩
    obtain ⟨-, -, -, harmed, halarm⟩ := semiWritten_frame .pc p s
    rw [respond_upc, storeSemi_upc_kept hb fun _ => hno]
    exact ⟨halarm, harmed⟩
  case cs =>
    rintro rfl
    rw [respond_upc, respond_ucs, storeSemi_upc_kept hb (fun h => nomatch h), storeSemi_ucs hb, semiWritten_ucs_count]
    exact ⟨semiWritten_cs_upc p s, semiWritten_pol .cs p s, by simp only [true_and]⟩

end Sys2Proof.Machine

/-! `BEGIN` and `END` (R160 to R164): the words that stand for them, the ordered tests of `BEGIN`, and what a successful one leaves, from
`begun_registered` and `unregister_ended`. -/

namespace Sys2Proof.Machine

/-! ### The words (R81, R82) -/

/-- The word of a channel command whose operands are the low `n` bits of `imm`: among the legal words the command determines the
channel and `imm`. -/
theorem encodedAs_channelReserved {f : ChanIx → BitVec 24 → Instr} {nCh op n imm : Nat} {c : ChanIx} {i : Instr} (hop : opcode i = op)
    (hdecode : ∀ w, (opField w).toNat = op →
      decode nCh w = withChannel nCh w fun k => withReserved n w (.ok (f k (immField w))))
    (hf : ∀ k v, v.toNat < 2 ^ n ∧ f k v = i ↔ k = c ∧ v.toNat = imm) (himm : imm < 2 ^ 24) (hc : c.val < nCh) :
    EncodedAs nCh i (op * 2 ^ 28 + c.val * 2 ^ 24 + imm) := by
  subst hop
  intro w
  have fields_iff : decode nCh w = .ok i ∧ (opField w).toNat = opcode i ↔
      (opField w).toNat = opcode i ∧ (chField w).toNat = c.val ∧ (immField w).toNat = imm := by
    rw [and_comm, and_congr_right_iff]
    intro hw
    rw [hdecode w hw, withChannel_eq_ok, withReserved_eq_ok, Except.ok.injEq, hf]
    constructor
    · rintro ⟨-, rfl, himm⟩
      exact ⟨rfl, himm⟩
    · rintro ⟨hch, himm⟩
      exact ⟨hch ▸ hc, Fin.ext hch, himm⟩
  rw [toNat_eq_fields c.isLt himm, ← fields_iff]
  exact (and_iff_left_of_imp opField_of_decode).symm

theorem unitCode_lt (u : UnitId) : unitCode u < 2 := by cases u <;> decide

/-- Format `P` reads the unit and the pin from the low nine bits of `imm` (R82). -/
theorem formatP_iff {v : BitVec 24} {m : UnitId} {p : BitVec 8} :
    v.toNat < 2 ^ 9 ∧ UnitId.ofCode (v.getLsbD 8) = m ∧ v.extractLsb' 0 8 = p ↔ v.toNat = unitCode m * 2 ^ 8 + p.toNat := by
  have unit_iff : UnitId.ofCode (v.getLsbD 8) = m ↔ v.toNat / 2 ^ 8 % 2 = unitCode m := by
    rw [BitVec.getLsbD, Nat.testBit_eq_decide_div_mod_eq]
    obtain h | h := Nat.mod_two_eq_zero_or_one (v.toNat / 2 ^ 8) <;> rw [h] <;> cases m <;> decide
  have hm := unitCode_lt m
  have hp := p.isLt
  rw [unit_iff, ← BitVec.toNat_inj, BitVec.extractLsb'_toNat, Nat.shiftRight_zero]
  omega

theorem encodedAs_beginChan {nCh : Nat} {c : ChanIx} (hc : c.val < nCh) (m : UnitId) (p : BitVec 8) :
    EncodedAs nCh (.beginChan c m p) (0x1 * 2 ^ 28 + c.val * 2 ^ 24 + unitCode m * 2 ^ 8 + p.toNat) := by
  have himm : unitCode m * 2 ^ 8 + p.toNat < 2 ^ 24 := by
    have hm := unitCode_lt m
    omega
  rw [Nat.add_assoc _ (unitCode m * 2 ^ 8)]
  refine encodedAs_channelReserved (f := fun k v => .beginChan k (.ofCode (v.getLsbD 8)) (v.extractLsb' 0 8)) (n := 9) rfl
    (fun w hw => ?_) (fun k v => ?_) himm hc
  · simp only [decode, hw, decodeBegin]
  · rw [← formatP_iff, Instr.beginChan.injEq]
    tauto

theorem encodedAs_endChan {nCh : Nat} {c : ChanIx} (hc : c.val < nCh) :
    EncodedAs nCh (.endChan c) (0x2 * 2 ^ 28 + c.val * 2 ^ 24) := by
  rw [← Nat.add_zero (0x2 * 2 ^ 28 + c.val * 2 ^ 24)]
  refine encodedAs_channelReserved (f := fun k _ => .endChan k) (n := 0) (imm := 0) rfl (fun w hw => ?_) (fun k v => ?_) (by decide) hc
  · simp only [decode, hw]
  · rw [Instr.endChan.injEq, pow_zero, Nat.lt_one_iff, and_comm]

/-! ### `BEGIN` on an existing channel (R161) -/

theorem raise_configPin (s : State) : s.raise .configPin = refusedBy 2 s := rfl

/-- The second test of `BEGIN`, whole; `pinOwned_eq_false` is the half that the invariants need. -/
theorem pinOwned_iff {c : ChanIx} {p : BitVec 8} {s : State} : pinOwned c p s = true ↔
    ∃ k : ChanIx, k ≠ c ∧ k.val < s.params.nCh ∧ (s.chan k).enabled = true ∧ (s.chan k).pinsel = p := by
  constructor
  · intro h
    obtain ⟨k, -, hk⟩ := List.any_eq_true.1 h
    simp only [hasChan_eq, Bool.and_eq_true, decide_eq_true_eq] at hk
    obtain ⟨⟨⟨hlt, hne⟩, he⟩, hp⟩ := hk
    exact ⟨k, hne, hlt, he, hp⟩
  · rintro ⟨k, hne, hlt, he, hp⟩
    by_contra hfree
    exact pinOwned_eq_false (Bool.not_eq_true _ ▸ hfree) k hlt hne he hp

section
variable {s : State} {c : ChanIx} {m : UnitId} {p : BitVec 8} (hc : c.val < s.params.nCh)
include hc

theorem exec_begin_enabled (he : (s.chan c).enabled = true) : exec (.beginChan c m p) s = .next (s.respond false 1) := by
  simp only [exec, execBegin, onChannel_next hc, he, if_true]

section
variable (hdis : (s.chan c).enabled = false)
include hdis

theorem exec_begin_badPin (hpin : s.params.nPins ≤ p.toNat ∨ pinOwned c p s = true) :
    exec (.beginChan c m p) s = .next (refusedBy 2 s) := by
  simp only [exec, execBegin, onChannel_next hc, hdis, Bool.false_eq_true, if_false, Bool.or_eq_true, decide_eq_true_eq, hpin, if_true,
    raise_configPin]

variable (hpin : ¬ (s.params.nPins ≤ p.toNat ∨ pinOwned c p s = true))
include hpin

theorem exec_begin_badLut (hlut : (s.chan c).lutEn = true ∧ s.semi m = 0) :
    exec (.beginChan c m p) s = .next (refusedBy 4 s) := by
  simp only [exec, execBegin, onChannel_next hc, hdis, Bool.false_eq_true, if_false, Bool.or_eq_true, Bool.and_eq_true,
    decide_eq_true_eq, hpin, hlut, and_self, if_true, raise_configLut]

theorem exec_begin_accepted (hlut : ¬ ((s.chan c).lutEn = true ∧ s.semi m = 0)) :
    exec (.beginChan c m p) s = .next ((register c m p s).respond false 1) := by
  simp only [exec, execBegin, onChannel_next hc, hdis, Bool.false_eq_true, if_false, Bool.or_eq_true, Bool.and_eq_true,
    decide_eq_true_eq, hpin, hlut]

end

end

/-- `BEGIN` re-applies the duty the channel had before it was registered (R161). -/
theorem register_dutySet {s : State} {c : ChanIx} (hb : BoundsLegal (s.chan c)) (m : UnitId) (p : BitVec 8) :
    DutySet (registered c m p s) c (s.chan c).duty.toNat (register c m p s) := by
  have hreg := (begun_registered c m p s).registered
  have hset := (setDuty_dutySet (s := registered c m p s) (c := c) (s.chan c).duty.toNat (by rwa [hreg])).1
  rwa [register_eq, reapply, hreg]

/-- Settles O21: the tests of R161 in their order; a channel that passes them is registered and its duty re-applied. -/
theorem beginEffect : Obligations.BeginEffect := by
  unfold Obligations.BeginEffect
  intro s c m p hc
  simp only [← pinOwned_iff]
  exact ⟨encodedAs_beginChan hc m p, exec_begin_enabled hc, exec_begin_badPin hc, exec_begin_badLut hc,
    fun hdis hpin hlut hb => ⟨_, _, exec_begin_accepted hc hdis hpin hlut, begun_registered c m p s,
      (register_dutySet hb m p).respond _ _, rfl⟩⟩

/-! ### `END` on an existing channel (R163) -/

theorem exec_end_disabled {s : State} {c : ChanIx} (hc : c.val < s.params.nCh) (hdis : (s.chan c).enabled = false) :
    exec (.endChan c) s = .next (s.respond false 1) := by
  simp only [exec, execEnd, onChannel_next hc, hdis, Bool.false_eq_true, if_false]

theorem exec_end_enabled {s : State} {c : ChanIx} (hc : c.val < s.params.nCh) (he : (s.chan c).enabled = true) :
    exec (.endChan c) s = .next ((unregister c s).respond false 1) := by
  simp only [exec, execEnd, onChannel_next hc, he, if_true]

/-- The response outputs are no part of what `END` leaves. -/
theorem Ended.respond {s t : State} {c : ChanIx} (h : Ended s c t) (err : Bool) (data : Word) : Ended s c (t.respond err data) :=
  ⟨h.released, h.others, h.pin_low, h.other_pins, by simpa using h.last, by simpa using h.not_last, h.pc_unit, h.cs_unit, h.frame⟩

/-- Settles O22: an enabled channel is unregistered; on any other `END` only answers. -/
theorem endEffect : Obligations.EndEffect := by
  unfold Obligations.EndEffect
  intro s c hc
  exact ⟨encodedAs_endChan hc, exec_end_disabled hc,
    fun he => ⟨_, exec_end_enabled hc he, (unregister_ended c s).respond _ _, rfl⟩⟩

end Sys2Proof.Machine

/-! The events of unit PC (R168 to R173): `ZC.PC` walks the PC channels twice, the PCU part of `TICK` at most once, and each body writes
one channel's outputs. With separate pins a loop then does to each channel what its body does to that channel alone
(`forChans_visits`), so that the effect of an event is read off the equations of its bodies. -/

namespace Sys2Proof.Machine

/-! ### A loop whose bodies each write one channel's outputs -/

/-- `t` shows channel `c` and its pin as `s` does, and differs from `s` in the outputs of other channels at most. -/
structure SameAt (s : State) (c : ChanIx) (t : State) : Prop where
  frame : WalkFrame s t
  chan : t.chan c = s.chan c
  chanPin : t.chanPin c = s.chanPin c

theorem WalkFrame.pinsel {s t : State} (h : WalkFrame s t) (c : ChanIx) : (t.chan c).pinsel = (s.chan c).pinsel :=
  (h.sameRegistration.chans c).2.2

/-- The output of another channel stays unless the two share a pin. -/
theorem OutputWritten.sameAt {s t : State} {a c : ChanIx} (h : OutputWritten s a t) (hca : c ≠ a)
    (hpin : (s.chan c).pinsel ≠ (s.chan a).pinsel) : SameAt s c t where
  frame := h.walkFrame
  chan := h.others c hca
  chanPin := by rw [State.chanPin, h.others c hca, h.other_pins _ hpin, State.chanPin]

section
variable {body : ChanIx → State → State} (hbody : ∀ c t, OutputWritten t c (body c t))
include hbody

theorem forChans_chan_other {l : List ChanIx} {k : ChanIx} (hk : k ∉ l) (s : State) : (forChans l body s).chan k = s.chan k :=
  forChans_keeps (P := fun t => t.chan k = s.chan k) l
    (fun c hc t ht => ((hbody c t).others k (by rintro rfl; exact hk hc)).trans ht) rfl

theorem forChans_pin_other {l : List ChanIx} {s : State} {q : BitVec 8} (hq : ∀ c ∈ l, (s.chan c).pinsel ≠ q) :
    (forChans l body s).pin q = s.pin q := by
  have keep : WalkFrame s (forChans l body s) ∧ (forChans l body s).pin q = s.pin q :=
    forChans_keeps (P := fun t => WalkFrame s t ∧ t.pin q = s.pin q) l (fun c hc t ⟨hf, ht⟩ =>
      ⟨hf.trans (hbody c t).walkFrame, ((hbody c t).other_pins q (by rw [hf.pinsel]; exact (hq c hc).symm)).trans ht⟩)
      ⟨walkFrame_refl s, rfl⟩
  exact keep.2

/-- Each visited channel ends as its own body leaves it, run on a state that still shows the channel as it was. -/
theorem forChans_visits {l : List ChanIx} (hl : l.Nodup) {s : State}
    (hpins : ∀ c ∈ l, ∀ k ∈ l, (s.chan c).pinsel = (s.chan k).pinsel → c = k) {c : ChanIx} (hc : c ∈ l) :
    ∃ t, SameAt s c t ∧ (forChans l body s).chan c = (body c t).chan c ∧
      (forChans l body s).chanPin c = (body c t).chanPin c := by
  induction l generalizing s with
  | nil => simp at hc
  | cons a l ih =>
    obtain ⟨ha, hl⟩ := List.nodup_cons.1 hl
    have hw := hbody a s
    have hpinsel := hw.walkFrame.pinsel
    rw [show forChans (a :: l) body s = forChans l body (body a s) from rfl]
    obtain rfl | hcl := List.mem_cons.1 hc
    · have hchan := forChans_chan_other hbody ha (body c s)
      refine ⟨s, ⟨walkFrame_refl s, rfl, rfl⟩, hchan, ?_⟩
      rw [State.chanPin, hchan, forChans_pin_other hbody, State.chanPin]
      intro k hk hsame
      rw [hpinsel, hpinsel] at hsame
      obtain rfl := hpins k (List.mem_cons_of_mem _ hk) c hc hsame
      exact ha hk
    · have hca : c ≠ a := by rintro rfl; exact ha hcl
      have hfirst := hw.sameAt hca fun h => hca (hpins c hc a List.mem_cons_self h)
      obtain ⟨t, ht, hchan, hchanPin⟩ := ih hl (s := body a s)
        (fun c hc k hk h => hpins c (List.mem_cons_of_mem _ hc) k (List.mem_cons_of_mem _ hk) (by rwa [hpinsel, hpinsel] at h)) hcl
      exact ⟨t, ⟨hfirst.frame.trans ht.frame, ht.chan.trans hfirst.chan, ht.chanPin.trans hfirst.chanPin⟩, hchan, hchanPin⟩

/-- `forChans_visits` for the channels of a unit, whose pins are separate. -/
theorem chansOf_visits {s : State} {u : UnitId} {c : ChanIx} (hs : PinsSeparate s) (hc : InUnit s u c) :
    ∃ t, SameAt s c t ∧ (forChans (s.chansOf u) body s).chan c = (body c t).chan c ∧
      (forChans (s.chansOf u) body s).chanPin c = (body c t).chanPin c := by
  refine forChans_visits hbody (nodup_chansOf s u) (fun a ha k hk hsame => ?_) (mem_chansOf.2 hc)
  obtain ⟨han, hae, -⟩ := mem_chansOf.1 ha
  obtain ⟨hkn, hke, -⟩ := mem_chansOf.1 hk
  exact hs.distinct a k han hkn hae hke hsame

theorem chansOf_outsideUnit (s : State) (u : UnitId) : OutsideUnit s (forChans (s.chansOf u) body s) u := by
  have hf := walkFrame_forChans hbody (s.chansOf u) s
  exact ⟨hf.params, hf.lut, fun c hc => forChans_chan_other hbody (mt mem_chansOf.1 hc) s,
    fun q hq => forChans_pin_other hbody fun c hc => hq c (mem_chansOf.1 hc)⟩

end

theorem OutsideUnit.trans {s t r : State} {u : UnitId} (h : OutsideUnit s t u) (h' : OutsideUnit t r u) (hreg : SameRegistration s t) :
    OutsideUnit s r u := by
  obtain ⟨hparams, hlut, hchan, hpin⟩ := h
  obtain ⟨hparams', hlut', hchan', hpin'⟩ := h'
  refine ⟨hparams'.trans hparams, hlut'.trans hlut, fun c hc => ?_, fun q hq => ?_⟩
  · exact (hchan' c (by rwa [hreg.inUnit])).trans (hchan c hc)
  · refine (hpin' q fun c hc => ?_).trans (hpin q hq)
    rw [(hreg.chans c).2.2]
    exact hq c ((hreg.inUnit u c).1 hc)

theorem SameRegistration.trans {s t r : State} (h : SameRegistration s t) (h' : SameRegistration t r) : SameRegistration s r := by
  refine ⟨h'.params.trans h.params, fun c => ?_⟩
  obtain ⟨he, hm, hp⟩ := h.chans c
  obtain ⟨he', hm', hp'⟩ := h'.chans c
  exact ⟨he'.trans he, hm'.trans hm, hp'.trans hp⟩

/-- The response outputs and the steps still presented are as before. -/
abbrev SamePorts (s t : State) : Prop := t.rsp = s.rsp ∧ t.inputs = s.inputs

theorem forChans_samePorts {body : ChanIx → State → State} (hbody : ∀ c t, SamePorts t (body c t)) (l : List ChanIx) (s : State) :
    SamePorts s (forChans l body s) :=
  forChans_keeps (P := SamePorts s) l (fun c _ t ht => ⟨(hbody c t).1.trans ht.1, (hbody c t).2.trans ht.2⟩) ⟨rfl, rfl⟩

/-! ### The output of one channel -/

theorem chanPin_driveChan {s : State} {c : ChanIx} (v : Bool) (hp : (s.chan c).pinsel.toNat < s.params.nPins) :
    (s.driveChan c v).chanPin c = v := by
  rw [State.chanPin, chan_driveChan]
  exact pin_setPin_same s v hp

theorem chanPin_setPend (s : State) (c : ChanIx) (x : Option Ticks) : (s.setPend c x).chanPin c = s.chanPin c := by
  rw [State.chanPin, chan_setPend_same, pin_setPend, State.chanPin]

theorem chanPin_congr {s t : State} {c : ChanIx} (hchan : t.chan c = s.chan c) (hpin : ∀ q, t.pin q = s.pin q) :
    t.chanPin c = s.chanPin c := by
  rw [State.chanPin, hchan, hpin, State.chanPin]

/-- A channel of the unit has an existing pin wherever the loop stands. -/
theorem SameAt.pin_inRange {s t : State} {u : UnitId} {c : ChanIx} (h : SameAt s c t) (hs : PinsSeparate s) (hc : InUnit s u c) :
    (t.chan c).pinsel.toNat < t.params.nPins := by
  rw [h.chan, h.frame.params]
  exact hs.inRange c hc.1 hc.2.1

/-- A recomputed alarm looks at the unit registers and the pending delays only. -/
theorem rearm_rearmed_of_upc {s t : State} (h : t.upc = s.upc) : Rearmed s (rearm t) := by
  simpa only [Rearmed, h] using rearm_rearmed t

/-- The counter holds every value of the 32-bit range (R38, R236). -/
theorem setCount_pc_toInt (s : State) {x : Int} (hlo : -0x80000000 ≤ x) (hhi : x ≤ 0x7FFFFFFF) :
    (s.setCount .pc x).upc.count.toInt = x := by
  rw [setCount_pc_upc]
  exact BitVec.toInt_ofInt_eq_self (by decide) (by simpa using hlo) (by simp; omega)

/-! ### The steps of the environment (R15, R80) -/

/-- The state an event of the environment acts on: its input taken, the response outputs `(0, 0)` (R80). -/
def taken (s : State) (rest : List Input) : State := { s with inputs := rest }.quiet

theorem step_of_zcPC {s : State} {d : BitVec 16} {rest : List Input} (h : s.inputs = .zcPC d :: rest) :
    step s = .next (zcPC d (taken s rest)) := by
  simp only [step, nextInput, h, event, taken]

theorem step_of_tick {s : State} {rest : List Input} (h : s.inputs = .tick :: rest) : step s = .next (tick (taken s rest)) := by
  simp only [step, nextInput, h, event, taken]

theorem PinsSeparate.taken {s : State} (h : PinsSeparate s) (rest : List Input) : PinsSeparate (taken s rest) :=
  ⟨h.inRange, h.distinct⟩

theorem AlarmInv.taken {s : State} (h : AlarmInv s) (rest : List Input) : AlarmInv (taken s rest) :=
  ⟨h.armed_iff, h.is_least, h.ahead⟩

/-! ### A scan of the PC channels for elapsed delays (R169, R172) -/

theorem clearDue_eq (now : Int) (ch : Channel) : clearDue now ch = { ch with pend := (clearDue now ch).pend } := by
  unfold clearDue
  split
  · rfl
  · split <;> rfl

theorem clearDue_none (now : Int) (ch : Channel) : clearDue now { ch with pend := none } = { ch with pend := none } := rfl

theorem clearDue_due {now : Int} {ch : Channel} {x : Ticks} (hx : ch.pend = some x) (h : (x.toNat : Int) ≤ now) :
    clearDue now ch = { ch with pend := none } := by
  simp only [clearDue, hx, if_pos h]

theorem clearDue_notDue {now : Int} {ch : Channel} (h : ∀ x, ch.pend = some x → now < (x.toNat : Int)) : clearDue now ch = ch := by
  unfold clearDue
  split
  · rfl
  · next x hx => exact if_neg (Int.not_le.2 (h x hx))

theorem ScansDue.samePorts {body : ChanIx → State → State} (h : ScansDue body) (c : ChanIx) (s : State) : SamePorts s (body c s) := by
  obtain ⟨hb, -⟩ | ⟨-, -, hb | hb⟩ := h c s <;> rw [hb]
  · exact ⟨rfl, rfl⟩
  · simp [SamePorts]
  · exact ⟨rfl, rfl⟩

/-- A scan leaves every PC channel with `clearDue`. -/
theorem ScansDue.loop_chan {body : ChanIx → State → State} (h : ScansDue body) {s : State} {c : ChanIx} (hc : InUnit s .pc c) :
    (forChans (s.chansOf .pc) body s).chan c = clearDue s.upc.count.toInt (s.chan c) := by
  rw [forChans_chan (P := fun t => t.upc = s.upc) (g := fun _ => clearDue s.upc.count.toInt) (nodup_chansOf s .pc)
    (fun c _ t ht => (h.written c t).upc.trans ht) (fun c _ t _ => (h.written c t).others) (fun c _ t ht => by rw [h.chan, ht]) rfl,
    if_pos (mem_chansOf.2 hc)]

/-- After a scan every delay that is still pending lies ahead of the counter (R167, R169). -/
theorem ScansDue.loop_ahead {body : ChanIx → State → State} (h : ScansDue body) (s : State) :
    Ahead (forChans (s.chansOf .pc) body s) := by
  have hf := walkFrame_forChans h.written (s.chansOf .pc) s
  intro c x ⟨hc, hx⟩
  rw [h.loop_chan ((hf.sameRegistration.inUnit .pc c).1 hc)] at hx
  rw [hf.upc]
  exact clearDue_pend hx

/-! ### The walk of `ZC.PC` (R168) -/

/-- The pending delay the walk gives a channel of this fire duty cycle. -/
def walkPend (s : State) (fire : Duty) : Option Ticks :=
  if fire = 0x10000 ∨ fire = 0 ∨ s.upc.semi = 0 then none else some (firingDelay s fire)

theorem walkPend_eq_some {s : State} {fire : Duty} {x : Ticks} : walkPend s fire = some x ↔
    fire ≠ 0x10000 ∧ fire ≠ 0 ∧ s.upc.semi ≠ 0 ∧ firingDelay s fire = x := by
  unfold walkPend
  split
  · simp only [reduceCtorEq]; tauto
  · simp only [Option.some.injEq]; tauto

theorem walkPend_eq_none {s : State} {fire : Duty} : walkPend s fire = none ↔ fire = 0x10000 ∨ fire = 0 ∨ s.upc.semi = 0 := by
  simp only [walkPend, ite_eq_left_iff, reduceCtorEq, imp_false, not_not]

theorem zcWalk_eq (c : ChanIx) (s : State) : zcWalk c s =
    (s.driveChan c (decide ((s.chan c).fire = 0x10000))).setPend c (walkPend s (s.chan c).fire) := by
  unfold zcWalk walkPend
  dsimp only
  split
  · next hone => simp only [hone, decide_true, true_or, if_true]
  split
  · next hone hoff => simp only [hone, hoff, decide_false, or_true, if_true]
  · next hone hoff => simp only [hone, hoff, decide_false, or_self, if_false]

theorem firingDelay_toNat (s : State) (fire : Duty) : (firingDelay s fire).toNat = zcDelay s fire := by
  have hle := delayOf_le fire.toNat s.upc.semi.toNat
  have hsemi := s.upc.semi.isLt
  have hmin := s.params.tMinDelay.isLt
  rw [firingDelay, BitVec.toNat_ofNat, Nat.mod_eq_of_lt (by omega), delayOf_eq]

/-- The state after the walk. -/
def walked (d : BitVec 16) (s : State) : State := forChans (s.chansOf .pc) zcWalk (s.setCount .pc d.toInt)

theorem zcPC_running {s : State} (hrun : ∃ c, InUnit s .pc c) (d : BitVec 16) :
    zcPC d s = rearm (forChans ((walked d s).chansOf .pc) zcLate (walked d s)) := if_pos (run_iff.2 hrun)

theorem zcPC_stopped {s : State} (hstop : ¬ ∃ c, InUnit s .pc c) (d : BitVec 16) : zcPC d s = s := if_neg (mt run_iff.1 hstop)

section
variable (d : BitVec 16) (s : State)

theorem walked_walkFrame : WalkFrame (s.setCount .pc d.toInt) (walked d s) := walkFrame_forChans zcWalk_written _ _

theorem walked_upc : (walked d s).upc = (s.setCount .pc d.toInt).upc := (walked_walkFrame d s).upc

theorem walked_params : (walked d s).params = s.params := (walked_walkFrame d s).params

theorem walked_count : (walked d s).upc.count.toInt = d.toInt := by
  rw [walked_upc]
  exact setCount_pc_toInt s (by have := BitVec.le_toInt d; omega) (by have := BitVec.toInt_lt (x := d); omega)

theorem walked_sameRegistration : SameRegistration s (walked d s) :=
  SameRegistration.trans (t := s.setCount .pc d.toInt) ⟨rfl, fun _ => ⟨rfl, rfl, rfl⟩⟩
    (walked_walkFrame d s).sameRegistration

theorem walked_outsideUnit : OutsideUnit s (walked d s) .pc := chansOf_outsideUnit zcWalk_written (s.setCount .pc d.toInt) .pc

theorem walked_samePorts : SamePorts s (walked d s) :=
  forChans_samePorts (fun c t => by rw [zcWalk_eq]; simp [SamePorts]) _ (s.setCount .pc d.toInt)

theorem walked_errFlags : (walked d s).errFlags = s.errFlags :=
  forChans_keeps (P := fun t => t.errFlags = s.errFlags) _ (fun c _ t ht => by rw [zcWalk_eq]; simpa using ht) rfl

end

section
variable {s : State} {c : ChanIx} (hs : PinsSeparate s) (hc : InUnit s .pc c) (d : BitVec 16)
include hs hc

/-- A PC channel after the walk: its pin is high at `FIRE = 1.0` only, and it waits when partly on. -/
theorem walked_channel : (walked d s).chan c = { s.chan c with pend := walkPend s (s.chan c).fire } ∧
    (walked d s).chanPin c = decide ((s.chan c).fire = 0x10000) := by
  have hs' : PinsSeparate (s.setCount .pc d.toInt) := ⟨hs.inRange, hs.distinct⟩
  obtain ⟨t, ht, hchan, hchanPin⟩ := chansOf_visits zcWalk_written hs' hc
  have hpend : walkPend t = walkPend s := by
    funext fire
    simp only [walkPend, firingDelay, ht.frame.upc, ht.frame.params, setCount_pc_upc, setCount_params]
  rw [zcWalk_eq] at hchan hchanPin
  rw [chan_setPend_same, chan_driveChan, hpend, ht.chan, chan_setCount] at hchan
  rw [chanPin_setPend, chanPin_driveChan _ (ht.pin_inRange hs' hc), ht.chan, chan_setCount] at hchanPin
  exact ⟨hchan, hchanPin⟩

end

/-! ### Overdue channels (R169) -/

/-- The pending delay of channel `c` is overdue by at most `T_LATE_MAX`. -/
def FiredInLine (s : State) (c : ChanIx) : Prop :=
  ∃ x, (s.chan c).pend = some x ∧ (x.toNat : Int) ≤ s.upc.count.toInt ∧ s.upc.count.toInt - x.toNat ≤ s.params.tLateMax.toNat

/-- The pending delay of channel `c` is overdue by more than `T_LATE_MAX`. -/
def LateDropped (s : State) (c : ChanIx) : Prop :=
  ∃ x, (s.chan c).pend = some x ∧ (s.params.tLateMax.toNat : Int) < s.upc.count.toInt - x.toNat

theorem zcLate_fired {s : State} {c : ChanIx} (h : FiredInLine s c) : zcLate c s = (s.driveChan c true).setPend c none := by
  obtain ⟨x, hx, hdue, hlate⟩ := h
  simp only [zcLate, hx, hdue, hlate, if_true]

theorem zcLate_dropped {s : State} {c : ChanIx} (h : LateDropped s c) : zcLate c s = (s.setFlag .timing).setPend c none := by
  obtain ⟨x, hx, hlate⟩ := h
  have hdue : (x.toNat : Int) ≤ s.upc.count.toInt := by omega
  simp only [zcLate, hx, hdue, if_true, if_neg (Int.not_le.2 hlate)]

theorem zcLate_waiting {s : State} {c : ChanIx} (hfired : ¬ FiredInLine s c) (hdropped : ¬ LateDropped s c) : zcLate c s = s := by
  unfold zcLate
  split
  · rfl
  · next x hx =>
    refine if_neg fun hdue => ?_
    by_cases hlate : s.upc.count.toInt - x.toNat ≤ s.params.tLateMax.toNat
    · exact hfired ⟨x, hx, hdue, hlate⟩
    · exact hdropped ⟨x, hx, Int.not_le.1 hlate⟩

theorem zcLate_chanPin_fired {s : State} {c : ChanIx} (hp : (s.chan c).pinsel.toNat < s.params.nPins) (h : FiredInLine s c) :
    (zcLate c s).chanPin c = true := by
  rw [zcLate_fired h, chanPin_setPend, chanPin_driveChan true hp]

theorem zcLate_chanPin_kept {s : State} {c : ChanIx} (h : ¬ FiredInLine s c) : (zcLate c s).chanPin c = s.chanPin c := by
  by_cases hdropped : LateDropped s c
  · rw [zcLate_dropped hdropped, chanPin_setPend]; rfl
  · rw [zcLate_waiting h hdropped]

theorem zcLate_errFlags_kept {s : State} {c : ChanIx} (h : ¬ LateDropped s c) : (zcLate c s).errFlags = s.errFlags := by
  by_cases hfired : FiredInLine s c
  · rw [zcLate_fired hfired]; simp
  · rw [zcLate_waiting hfired h]

theorem zcLate_errFlags_dropped {s : State} {c : ChanIx} (h : LateDropped s c) : (zcLate c s).errFlags = s.errFlags ||| 8 := by
  rw [zcLate_dropped h]; rfl

/-- `FiredInLine` and `LateDropped` look at the channel, the counter and the parameters. -/
theorem firedInLine_congr {s t : State} {c : ChanIx} (hchan : t.chan c = s.chan c) (hf : WalkFrame s t) :
    FiredInLine t c ↔ FiredInLine s c := by
  simp only [FiredInLine, hchan, hf.upc, hf.params]

theorem lateDropped_congr {s t : State} {c : ChanIx} (hchan : t.chan c = s.chan c) (hf : WalkFrame s t) :
    LateDropped t c ↔ LateDropped s c := by
  simp only [LateDropped, hchan, hf.upc, hf.params]

/-- `TIMING` is set exactly if the scan drops a channel (R169). -/
theorem forChans_zcLate_errFlags {l : List ChanIx} (hl : l.Nodup) (s : State) :
    ((∃ c ∈ l, LateDropped s c) → (forChans l zcLate s).errFlags = s.errFlags ||| 8) ∧
    ((¬ ∃ c ∈ l, LateDropped s c) → (forChans l zcLate s).errFlags = s.errFlags) := by
  induction l generalizing s with
  | nil => simp [forChans]
  | cons a l ih =>
    obtain ⟨ha, hl⟩ := List.nodup_cons.1 hl
    obtain ⟨hset, hkept⟩ := ih hl (zcLate a s)
    have hw := scansDue_zcLate.written a s
    have hrest : (∃ c ∈ l, LateDropped (zcLate a s) c) ↔ ∃ c ∈ l, LateDropped s c := by
      refine exists_congr fun c => and_congr_right fun hc => lateDropped_congr (hw.others c ?_) hw.walkFrame
      rintro rfl
      exact ha hc
    rw [hrest] at hset hkept
    rw [show forChans (a :: l) zcLate s = forChans l zcLate (zcLate a s) from rfl, List.exists_mem_cons_iff]
    by_cases hdropped : LateDropped s a
    · refine ⟨fun _ => ?_, fun h => absurd (.inl hdropped) h⟩
      rw [zcLate_errFlags_dropped hdropped] at hset hkept
      by_cases hl : ∃ c ∈ l, LateDropped s c
      · rw [hset hl, BitVec.or_assoc, BitVec.or_self]
      · exact hkept hl
    · simp only [hdropped, false_or]
      rw [zcLate_errFlags_kept hdropped] at hset hkept
      exact ⟨hset, hkept⟩

/-! ### The step `ZC.PC` (R168 to R171) -/

section
variable {s : State} (hrun : ∃ c, InUnit s .pc c) (d : BitVec 16)
include hrun

theorem zcPC_samePorts : SamePorts s (zcPC d s) := by
  obtain ⟨hrsp, hinputs⟩ := forChans_samePorts scansDue_zcLate.samePorts ((walked d s).chansOf .pc) (walked d s)
  obtain ⟨hrsp', hinputs'⟩ := walked_samePorts d s
  rw [zcPC_running hrun]
  exact ⟨by rw [rearm_rsp, hrsp, hrsp'], by rw [rearm_inputs, hinputs, hinputs']⟩

theorem zcPC_ucs : (zcPC d s).ucs = s.ucs := by
  rw [zcPC_running hrun, rearm_ucs, (walkFrame_forChans scansDue_zcLate.written _ _).ucs, (walked_walkFrame d s).ucs, setCount_pc_ucs]

theorem zcPC_outsideUnit : OutsideUnit s (zcPC d s) .pc := by
  have hscan := chansOf_outsideUnit scansDue_zcLate.written (walked d s) .pc
  have h := (walked_outsideUnit d s).trans hscan (walked_sameRegistration d s)
  rw [zcPC_running hrun]
  simpa [OutsideUnit] using h

/-- The alarm is recomputed, and `COUNT` is the time since the true zero-cross. -/
theorem zcPC_rearmed : Rearmed (s.setCount .pc d.toInt) (zcPC d s) := by
  rw [zcPC_running hrun]
  exact rearm_rearmed_of_upc ((walkFrame_forChans scansDue_zcLate.written _ _).upc.trans (walked_upc d s))

theorem zcPC_count : (zcPC d s).upc.count.toInt = d.toInt := by
  obtain ⟨-, -, -, hcount⟩ := zcPC_rearmed hrun d
  rw [hcount, ← walked_upc, walked_count]

/-- The alarm lies ahead of the counter, as what is due was fired or dropped. -/
theorem zcPC_ahead (harmed : (zcPC d s).upc.armed = true) :
    (zcPC d s).upc.count.toInt < (zcPC d s).upc.alarm.toNat := by
  obtain ⟨⟨-, hleast⟩, -⟩ := zcPC_rearmed hrun d
  obtain ⟨⟨c, hpending⟩, -⟩ := hleast harmed
  rw [zcPC_running hrun] at hpending ⊢
  have same : SameFile (forChans ((walked d s).chansOf .pc) zcLate (walked d s))
      (rearm (forChans ((walked d s).chansOf .pc) zcLate (walked d s))) := ⟨by simp, by simp, by simp⟩
  rw [rearm_count]
  exact scansDue_zcLate.loop_ahead (walked d s) c _ ((same.pending c _).1 hpending)

end

section
variable {s : State} (hs : PinsSeparate s) (d : BitVec 16)
include hs

/-- A channel the scan drops is one whose new firing delay is overdue by more than `T_LATE_MAX`. -/
theorem lateDropped_walked {c : ChanIx} (hc : InUnit s .pc c) :
    LateDropped (walked d s) c ↔ ZcDropped s d.toInt (s.chan c).fire := by
  rw [LateDropped, (walked_channel hs hc d).1, walked_count, walked_params]
  simp only [walkPend_eq_some, ZcDropped, and_assoc, exists_and_left, exists_eq_left', firingDelay_toNat]

variable (hrun : ∃ c, InUnit s .pc c)
include hrun

theorem zcPC_errFlags :
    ((∃ c, InUnit s .pc c ∧ ZcDropped s d.toInt (s.chan c).fire) → (zcPC d s).errFlags = s.errFlags ||| 8) ∧
    ((¬ ∃ c, InUnit s .pc c ∧ ZcDropped s d.toInt (s.chan c).fire) → (zcPC d s).errFlags = s.errFlags) := by
  have dropped_iff : (∃ c ∈ (walked d s).chansOf .pc, LateDropped (walked d s) c) ↔
      ∃ c, InUnit s .pc c ∧ ZcDropped s d.toInt (s.chan c).fire := by
    refine exists_congr fun c => ?_
    rw [mem_chansOf, (walked_sameRegistration d s).inUnit]
    exact and_congr_right (lateDropped_walked hs d)
  rw [← dropped_iff, zcPC_running hrun, rearm_errFlags, ← walked_errFlags d s]
  exact forChans_zcLate_errFlags (nodup_chansOf _ _) _

/-- A PC channel after the step: the scan run on what the walk left of it. -/
theorem zcPC_scans {c : ChanIx} (hc : InUnit s .pc c) :
    (zcPC d s).chan c = clearDue d.toInt { s.chan c with pend := walkPend s (s.chan c).fire } ∧
    (FiredInLine (walked d s) c → (zcPC d s).chanPin c = true) ∧
    (¬ FiredInLine (walked d s) c → (zcPC d s).chanPin c = decide ((s.chan c).fire = 0x10000)) := by
  obtain ⟨hwchan, hwpin⟩ := walked_channel hs hc d
  have hreg := walked_sameRegistration d s
  have hcw := (hreg.inUnit .pc c).2 hc
  have hsw := hreg.pinsSeparate hs
  obtain ⟨t, ht, -, hchanPin⟩ := chansOf_visits scansDue_zcLate.written hsw hcw
  have fired_iff := firedInLine_congr ht.chan ht.frame
  rw [zcPC_running hrun, rearm_chan, scansDue_zcLate.loop_chan hcw, walked_count, hwchan,
    chanPin_congr (rearm_chan _ c) (rearm_pin _), hchanPin, ← fired_iff, ← hwpin, ← ht.chanPin]
  exact ⟨rfl, zcLate_chanPin_fired (ht.pin_inRange hsw hcw), zcLate_chanPin_kept⟩

end

/-- The outcome of the step for a PC channel, case by case as R168 and R169 list them. -/
theorem zcPC_outcome {s : State} {c : ChanIx} (hs : PinsSeparate s) (hc : InUnit s .pc c) (d : BitVec 16) :
    ZcOutcome s d.toInt (s.chan c).fire ((zcPC d s).chanPin c) ((zcPC d s).chan c).pend := by
  obtain ⟨hchan, hfired, hkept⟩ := zcPC_scans hs d ⟨c, hc⟩ hc
  simp only [FiredInLine, (walked_channel hs hc d).1, walked_count, walked_params] at hfired hkept
  rw [hchan, ZcOutcome]
  rcases hpend : walkPend s (s.chan c).fire with _ | x <;> simp only [hpend] at hfired hkept
  case none =>
    rw [hkept (by simp), clearDue_none]
    split
    · next hone => exact ⟨decide_eq_true hone, rfl⟩
    · next hone =>
      rw [if_pos ((walkPend_eq_none.1 hpend).resolve_left hone)]
      exact ⟨decide_eq_false hone, rfl⟩
  case some =>
    obtain ⟨hone, hzero, hsemi, rfl⟩ := walkPend_eq_some.1 hpend
    simp only [Option.some.injEq, exists_eq_left', firingDelay_toNat, decide_eq_false hone] at hfired hkept
    rw [if_neg hone, if_neg (not_or.2 ⟨hzero, hsemi⟩)]
    split
    · next hahead =>
      rw [hkept (by omega), clearDue_notDue (by simpa [firingDelay_toNat] using hahead)]
      exact ⟨rfl, _, rfl, firingDelay_toNat s _⟩
    next hdue =>
      rw [clearDue_due rfl (by rw [firingDelay_toNat]; omega)]
      split
      · next hlate => exact ⟨hfired ⟨by omega, hlate⟩, rfl⟩
      · next hlate => exact ⟨hkept fun h => hlate h.2, rfl⟩

/-- The step writes of a PC channel the pending delay only. -/
theorem zcPC_chan {s : State} {c : ChanIx} (hs : PinsSeparate s) (hc : InUnit s .pc c) (d : BitVec 16) :
    (zcPC d s).chan c = { s.chan c with pend := ((zcPC d s).chan c).pend } := by
  rw [(zcPC_scans hs d ⟨c, hc⟩ hc).1, clearDue_eq]

/-- Settles O28: each part of the effect by its lemma on `zcPC`, on the state with the input taken. -/
theorem zeroCrossPhaseControl : Obligations.ZeroCrossPhaseControl := by
  unfold Obligations.ZeroCrossPhaseControl
  intro s d rest hin hs
  rw [step_of_zcPC hin]
  have hs' := hs.taken rest
  refine ⟨fun hstop => ?_, fun hrun => ?_⟩
  · rw [zcPC_stopped (s := taken s rest) hstop]; rfl
  · have hrun' : ∃ c, InUnit (taken s rest) .pc c := hrun
    obtain ⟨hrsp, hinputs⟩ := zcPC_samePorts hrun' d
    obtain ⟨hleast, hkept, hsemi, -⟩ := zcPC_rearmed hrun' d
    obtain ⟨hset, hclear⟩ := zcPC_errFlags hs' d hrun'
    refine ⟨_, rfl, hinputs, hrsp, zcPC_count hrun' d, hsemi, zcPC_ucs hrun' d, zcPC_outsideUnit hrun' d, fun c hc => ?_, hset, hclear,
      hleast, hkept, zcPC_ahead hrun' d⟩
    have hchan := zcPC_chan hs' hc d
    have houtcome := zcPC_outcome hs' hc d
    rw [State.chanPin, hchan] at houtcome
    exact ⟨hchan, houtcome⟩

/-! ### The PCU part of `TICK` (R172, R173) -/

/-- The state with the counter of unit PC advanced, saturating. -/
def counted (s : State) : State := s.setCount .pc (min (s.upc.count.toInt + 1) 0x7FFFFFFF)

theorem counted_count (s : State) : (counted s).upc.count.toInt = min (s.upc.count.toInt + 1) 0x7FFFFFFF := by
  have hlo := BitVec.le_toInt s.upc.count
  exact setCount_pc_toInt s (by omega) (by omega)

theorem setCount_pc_self (s : State) : s.setCount .pc s.upc.count.toInt = s := by
  simp [State.setCount]

theorem pcTick_stopped {s : State} (hstop : ¬ ∃ c, InUnit s .pc c) : pcTick s = s := if_neg (mt run_iff.1 hstop)

theorem pcTick_running {s : State} (hrun : ∃ c, InUnit s .pc c) : pcTick s =
    if s.upc.armed = true ∧ (s.upc.alarm.toNat : Int) ≤ (counted s).upc.count.toInt then alarmPc (counted s) else counted s := by
  have advance : (if s.upc.count.toInt < 0x7FFFFFFF then s.setCount .pc (s.upc.count.toInt + 1) else s) = counted s := by
    have hhi := BitVec.toInt_lt (x := s.upc.count)
    unfold counted
    split
    · next h => rw [min_eq_left (by omega)]
    · next h => rw [show min (s.upc.count.toInt + 1) 0x7FFFFFFF = s.upc.count.toInt by omega, setCount_pc_self]
  rw [pcTick, if_pos (run_iff.2 hrun), advance]
  rfl

/-- The pending delay of a channel has elapsed at counter value `now`. -/
abbrev IsDue (now : Int) (ch : Channel) : Prop := ∃ x, ch.pend = some x ∧ (x.toNat : Int) ≤ now

theorem alarmFire_due {s : State} {c : ChanIx} (h : IsDue s.upc.count.toInt (s.chan c)) :
    alarmFire c s = (s.driveChan c true).setPend c none := by
  obtain ⟨x, hx, hdue⟩ := h
  simp only [alarmFire, hx, if_pos hdue]

theorem alarmFire_notDue {s : State} {c : ChanIx} (h : ¬ IsDue s.upc.count.toInt (s.chan c)) : alarmFire c s = s := by
  unfold alarmFire
  split
  · rfl
  · next x hx => exact if_neg fun hdue => h ⟨x, hx, hdue⟩

/-- The alarm's scan does to each PC channel what its body does to that channel (R172). -/
theorem alarmPc_channel {s : State} {c : ChanIx} (hs : PinsSeparate s) (hc : InUnit s .pc c) :
    (IsDue s.upc.count.toInt (s.chan c) → (alarmPc s).chanPin c = true ∧ (alarmPc s).chan c = { s.chan c with pend := none }) ∧
    (¬ IsDue s.upc.count.toInt (s.chan c) → (alarmPc s).chanPin c = s.chanPin c ∧ (alarmPc s).chan c = s.chan c) := by
  obtain ⟨t, ht, hchan, hchanPin⟩ := chansOf_visits scansDue_alarmFire.written hs hc
  have due_iff : IsDue t.upc.count.toInt (t.chan c) ↔ IsDue s.upc.count.toInt (s.chan c) := by rw [ht.frame.upc, ht.chan]
  rw [alarmPc, chanPin_congr (rearm_chan _ c) (rearm_pin _), rearm_chan, hchan, hchanPin, ← due_iff]
  refine ⟨fun hdue => ?_, fun hnot => ?_⟩
  · rw [alarmFire_due hdue, chanPin_setPend, chanPin_driveChan true (ht.pin_inRange hs hc), chan_setPend_same, chan_driveChan, ht.chan]
    exact ⟨rfl, rfl⟩
  · rw [alarmFire_notDue hnot]
    exact ⟨ht.chanPin, ht.chan⟩

theorem alarmPc_rearmed (s : State) : Rearmed s (alarmPc s) :=
  rearm_rearmed_of_upc (walkFrame_forChans scansDue_alarmFire.written _ _).upc

theorem alarmPc_samePorts (s : State) : SamePorts s (alarmPc s) := by
  have h := forChans_samePorts scansDue_alarmFire.samePorts (s.chansOf .pc) s
  rwa [alarmPc, SamePorts, rearm_rsp, rearm_inputs]

theorem alarmPc_sameRegistration (s : State) : SameRegistration s (alarmPc s) :=
  (walkFrame_forChans scansDue_alarmFire.written _ _).sameRegistration.trans
    ⟨rearm_params _, fun c => by rw [alarmPc, rearm_chan]; exact ⟨rfl, rfl, rfl⟩⟩

/-- With the alarm right, the counter reaches a pending delay only when it has reached the alarm (R39). -/
theorem AlarmInv.due {s : State} (h : AlarmInv s) {c : ChanIx} (hc : InUnit s .pc c) {now : Int} (hdue : IsDue now (s.chan c)) :
    s.upc.armed = true ∧ (s.upc.alarm.toNat : Int) ≤ now := by
  obtain ⟨x, hx, hle⟩ := hdue
  have harmed : s.upc.armed = true := h.armed_iff.2 ⟨c, x, hc, hx⟩
  have hleast : s.upc.alarm.toNat ≤ x.toNat := (h.is_least harmed).2 c x ⟨hc, hx⟩
  exact ⟨harmed, by omega⟩

theorem pcTick_samePorts (s : State) : SamePorts s (pcTick s) := by
  by_cases hrun : ∃ c, InUnit s .pc c
  · rw [pcTick_running hrun]
    split
    · exact alarmPc_samePorts (counted s)
    · exact ⟨rfl, rfl⟩
  · rw [pcTick_stopped hrun]
    exact ⟨rfl, rfl⟩

theorem pcTick_sameRegistration (s : State) : SameRegistration s (pcTick s) := by
  have hcounted : SameRegistration s (counted s) := ⟨rfl, fun _ => ⟨rfl, rfl, rfl⟩⟩
  by_cases hrun : ∃ c, InUnit s .pc c
  · rw [pcTick_running hrun]
    split
    · exact hcounted.trans (alarmPc_sameRegistration _)
    · exact hcounted
  · rw [pcTick_stopped hrun]
    exact ⟨rfl, fun _ => ⟨rfl, rfl, rfl⟩⟩

section
variable {s : State} (ha : AlarmInv s)
include ha

/-- Whether the alarm goes off or not, `ALARM` ends as the least pending delay. -/
theorem pcTick_rearmed (hrun : ∃ c, InUnit s .pc c) : Rearmed (counted s) (pcTick s) := by
  rw [pcTick_running hrun]
  split
  · exact alarmPc_rearmed (counted s)
  · exact ⟨⟨ha.armed_iff, ha.is_least⟩, fun _ => rfl, rfl, rfl⟩

theorem pcTick_channel {c : ChanIx} (hs : PinsSeparate s) (hc : InUnit s .pc c) :
    (IsDue (counted s).upc.count.toInt (s.chan c) →
      (pcTick s).chanPin c = true ∧ (pcTick s).chan c = { s.chan c with pend := none }) ∧
    (¬ IsDue (counted s).upc.count.toInt (s.chan c) → (pcTick s).chanPin c = s.chanPin c ∧ (pcTick s).chan c = s.chan c) := by
  rw [pcTick_running ⟨c, hc⟩]
  split
  · exact alarmPc_channel (s := counted s) ⟨hs.inRange, hs.distinct⟩ hc
  · next hquiet => exact ⟨fun hdue => absurd (ha.due hc hdue) hquiet, fun _ => ⟨rfl, rfl⟩⟩

end

/-! ### What the CSU part of `TICK` leaves of unit PC (R204, R207) -/

/-- `t` is `s` after work of unit CS alone. -/
structure CsWork (s t : State) : Prop where
  registration : SameRegistration s t
  outside : OutsideUnit s t .cs
  upc : t.upc = s.upc
  ports : SamePorts s t

theorem csWork_ucs (s : State) (x : CsUnit) : CsWork s { s with ucs := x } :=
  ⟨⟨rfl, fun _ => ⟨rfl, rfl, rfl⟩⟩, ⟨rfl, rfl, fun _ _ => rfl, fun _ _ => rfl⟩, rfl, rfl, rfl⟩

theorem CsWork.trans {s t r : State} (h : CsWork s t) (h' : CsWork t r) : CsWork s r :=
  ⟨h.registration.trans h'.registration, h.outside.trans h'.outside h.registration, h'.upc.trans h.upc,
    h'.ports.1.trans h.ports.1, h'.ports.2.trans h.ports.2⟩

theorem decideChan_samePorts (p : Int) (c : ChanIx) (s : State) : SamePorts s (decideChan p c s) := by
  obtain ⟨v, x, h, -⟩ := decideChan_cases p c s
  rw [h]
  simp [SamePorts]

theorem boundary_csWork (s : State) : CsWork s (boundary s) := by
  have hf := decided_walkFrame s
  have hdecided : CsWork s (decided s) := ⟨hf.sameRegistration, chansOf_outsideUnit (decideChan_written _) s .cs, hf.upc,
    forChans_samePorts (decideChan_samePorts _) _ s⟩
  rw [boundary_eq]
  exact hdecided.trans (csWork_ucs _ _)

theorem csTick_csWork (s : State) : CsWork s (csTick s) := by
  unfold csTick
  split
  · split
    · exact csWork_ucs s _
    dsimp only
    split
    · exact ((csWork_ucs s _).trans (boundary_csWork _)).trans (csWork_ucs _ _)
    · exact csWork_ucs s _
  · exact csWork_ucs s s.ucs

section
variable {s t : State} (h : CsWork s t)
include h

/-- A channel of unit PC and its pin are left alone when the pins are separate. -/
theorem CsWork.pc_channel (hs : PinsSeparate s) {c : ChanIx} (hc : InUnit s .pc c) : t.chanPin c = s.chanPin c ∧ t.chan c = s.chan c := by
  obtain ⟨-, -, hchan, hpin⟩ := h.outside
  obtain ⟨hn, he, hm⟩ := hc
  have hchanc := hchan c fun ⟨_, _, hcs⟩ => by simp [hm] at hcs
  refine ⟨?_, hchanc⟩
  rw [State.chanPin, hchanc]
  refine hpin _ fun k ⟨hkn, hke, hkm⟩ hsame => ?_
  obtain rfl := hs.distinct k c hkn hn hke he hsame
  simp [hm] at hkm

theorem CsWork.pending (c : ChanIx) (x : Ticks) : Pending t c x ↔ Pending s c x := by
  obtain ⟨-, -, hchan, -⟩ := h.outside
  unfold Pending
  rw [h.registration.inUnit, and_congr_right_iff]
  rintro ⟨-, -, hm⟩
  rw [hchan c fun ⟨_, _, hcs⟩ => by simp [hm] at hcs]

theorem CsWork.alarmLeast (hl : AlarmLeast s) : AlarmLeast t := alarmLeast_congr hl h.pending (by rw [h.upc]) (by rw [h.upc])

end

/-- Settles O29: the PCU part of `TICK` has the effect, and the CSU part leaves unit PC as it is. -/
theorem tickPhaseControl : Obligations.TickPhaseControl := by
  unfold Obligations.TickPhaseControl
  intro s rest hin hs ha
  have hs' := hs.taken rest
  have ha' := ha.taken rest
  have hcs := csTick_csWork (pcTick (taken s rest))
  have hreg := pcTick_sameRegistration (taken s rest)
  obtain ⟨hrsp, hinputs⟩ := pcTick_samePorts (taken s rest)
  refine ⟨_, step_of_tick hin, hcs.ports.2.trans hinputs, hcs.ports.1.trans hrsp, fun hstop => ?_, fun hrun => ?_⟩
  · rw [tick, hcs.upc, pcTick_stopped (s := taken s rest) hstop]; rfl
  · obtain ⟨hleast, hkept, hsemi, hcount⟩ := pcTick_rearmed ha' hrun
    have hchannel {c : ChanIx} (hc : InUnit (taken s rest) .pc c) := hcs.pc_channel (hreg.pinsSeparate hs') ((hreg.inUnit .pc c).2 hc)
    rw [tick, hcs.upc, hcount]
    refine ⟨counted_count _, hsemi, hcs.alarmLeast hleast, hkept, fun c x ⟨hc, hx⟩ hdue => ?due, fun c hc hnot => ?kept⟩
    case due =>
      obtain ⟨hpin, hchan⟩ := hchannel hc
      rw [hpin, hchan]
      exact (pcTick_channel ha' hs' hc).1 ⟨x, hx, hdue⟩
    case kept =>
      obtain ⟨hpin, hchan⟩ := hchannel hc
      rw [hpin, hchan]
      exact (pcTick_channel ha' hs' hc).2 fun ⟨x, hx, hdue⟩ => hnot ⟨x, ⟨hc, hx⟩, hdue⟩

end Sys2Proof.Machine

/-! The CSU part of `TICK` (R204, R205, R207): the effect of one boundary on the channels of unit CS, the four cases of the counter,
and what the PCU part, which comes first, leaves of unit CS. -/

namespace Sys2Proof.Machine

/-! ### What a unit's event leaves of the channels of no unit and of the other unit -/

/-- What no event touches: parameters, table, the channels that are not registered and the pins no registered channel drives. -/
structure OutsideUnits (s t : State) : Prop where
  params : t.params = s.params
  lut : t.lut = s.lut
  unregistered : ∀ c : ChanIx, ¬ (c.val < s.params.nCh ∧ (s.chan c).enabled = true) → t.chan c = s.chan c
  unowned : ∀ p : BitVec 8, (∀ c : ChanIx, c.val < s.params.nCh → (s.chan c).enabled = true → (s.chan c).pinsel ≠ p) →
    t.pin p = s.pin p

section
variable {s t : State} {u : UnitId} (h : OutsideUnit s t u)
include h

/-- A channel of the other unit and its pin are left alone when the pins are separate. -/
theorem OutsideUnit.otherUnit_channel {v : UnitId} (hvu : v ≠ u) (hs : PinsSeparate s) {c : ChanIx} (hc : InUnit s v c) :
    t.chan c = s.chan c ∧ t.chanPin c = s.chanPin c := by
  obtain ⟨-, -, hchan, hpin⟩ := h
  obtain ⟨hn, he, hm⟩ := hc
  have hchanc : t.chan c = s.chan c := hchan c fun ⟨_, _, hu⟩ => hvu (hm ▸ hu)
  refine ⟨hchanc, ?_⟩
  rw [State.chanPin, hchanc]
  refine hpin _ fun k ⟨hkn, hke, hku⟩ hsame => ?_
  obtain rfl := hs.distinct k c hkn hn hke he hsame
  exact hvu (hm ▸ hku)

theorem OutsideUnit.outsideUnits : OutsideUnits s t := by
  obtain ⟨hparams, hlut, hchan, hpin⟩ := h
  exact ⟨hparams, hlut, fun c hc => hchan c fun ⟨hn, he, _⟩ => hc ⟨hn, he⟩, fun p hp => hpin p fun c ⟨hn, he, _⟩ => hp c hn he⟩

end

theorem OutsideUnits.trans {s t r : State} (h : OutsideUnits s t) (h' : OutsideUnits t r) (hreg : SameRegistration s t) :
    OutsideUnits s r := by
  refine ⟨h'.params.trans h.params, h'.lut.trans h.lut, fun c hc => ?_, fun p hp => ?_⟩
  · exact (h'.unregistered c (by rwa [hreg.params, (hreg.chans c).1])).trans (h.unregistered c hc)
  · refine (h'.unowned p fun c hn he => ?_).trans (h.unowned p hp)
    obtain ⟨hen, -, hpinsel⟩ := hreg.chans c
    exact hpinsel ▸ hp c (hreg.params ▸ hn) (hen ▸ he)

/-! ### What the PCU part of `TICK` leaves of unit CS (R173) -/

/-- The PCU part does nothing, only counts, or counts and sounds the alarm. -/
theorem pcTick_cases (s : State) : pcTick s = s ∨ pcTick s = counted s ∨ pcTick s = alarmPc (counted s) := by
  by_cases hrun : ∃ c, InUnit s .pc c
  · rw [pcTick_running hrun]
    split
    · exact .inr (.inr rfl)
    · exact .inr (.inl rfl)
  · exact .inl (pcTick_stopped hrun)

theorem alarmPc_ucs (s : State) : (alarmPc s).ucs = s.ucs := by
  rw [alarmPc, rearm_ucs, (walkFrame_forChans scansDue_alarmFire.written _ _).ucs]

theorem alarmFire_errFlags (c : ChanIx) (s : State) : (alarmFire c s).errFlags = s.errFlags := by
  by_cases hdue : IsDue s.upc.count.toInt (s.chan c)
  · simp [alarmFire_due hdue]
  · rw [alarmFire_notDue hdue]

theorem alarmPc_errFlags (s : State) : (alarmPc s).errFlags = s.errFlags := by
  rw [alarmPc, rearm_errFlags]
  exact forChans_keeps (P := fun t => t.errFlags = s.errFlags) _ (fun c _ t ht => (alarmFire_errFlags c t).trans ht) rfl

theorem alarmPc_outsideUnit (s : State) : OutsideUnit s (alarmPc s) .pc := by
  simpa [alarmPc, OutsideUnit] using chansOf_outsideUnit scansDue_alarmFire.written s .pc

theorem pcTick_ucs (s : State) : (pcTick s).ucs = s.ucs := by
  obtain h | h | h := pcTick_cases s
  · rw [h]
  · rw [h]; rfl
  · rw [h]; exact alarmPc_ucs (counted s)

theorem pcTick_errFlags (s : State) : (pcTick s).errFlags = s.errFlags := by
  obtain h | h | h := pcTick_cases s
  · rw [h]
  · rw [h]; rfl
  · rw [h]; exact alarmPc_errFlags (counted s)

theorem pcTick_outsideUnit (s : State) : OutsideUnit s (pcTick s) .pc := by
  obtain h | h | h := pcTick_cases s <;> rw [h]
  · exact ⟨rfl, rfl, fun _ _ => rfl, fun _ _ => rfl⟩
  · exact ⟨rfl, rfl, fun _ _ => rfl, fun _ _ => rfl⟩
  · exact alarmPc_outsideUnit (counted s)

/-! ### One channel's decision (R207) -/

theorem addDebt_le (debt : BitVec 18) (fire : Duty) : addDebt debt fire ≤ 0x3FFFF := min_le_right _ _

/-- `DEBT` holds every saturated sum, and what conducting leaves of it (R33). -/
theorem debt_toNat {n : Nat} (h : n ≤ 0x3FFFF) : (BitVec.ofNat 18 n).toNat = n := by
  rw [BitVec.toNat_ofNat, Nat.mod_eq_of_lt (by omega)]

theorem mayConduct_iff {b p : Int} : mayConduct b p = true ↔ b = 0 ∨ b.sign ≠ p := by simp [mayConduct]

/-- `BAL` holds the new balance whenever the channel may conduct (R34, R207). -/
theorem balance_toInt {b : BitVec 2} {p : Int} (hp : p = 1 ∨ p = -1) (hm : mayConduct b.toInt p = true) :
    (BitVec.ofInt 2 (b.toInt + p)).toInt = b.toInt + p := by
  obtain rfl | rfl := hp <;> revert b <;> decide

section
variable {s : State} {c : ChanIx} (p : Int)

theorem decideChan_full (hfull : 0x10000 ≤ (s.chan c).fire.toNat) : decideChan p c s = s.driveChan c true := if_pos hfull

theorem decideChan_off (hoff : (s.chan c).fire = 0) : decideChan p c s = s.driveChan c false := by
  simp [decideChan, hoff]

variable (hfull : ¬ 0x10000 ≤ (s.chan c).fire.toNat) (hoff : (s.chan c).fire ≠ 0)
include hfull hoff

theorem decideChan_conducts (hdebt : 0x10000 ≤ addDebt (s.chan c).debt (s.chan c).fire)
    (hmay : mayConduct (s.chan c).bal.toInt p = true) : decideChan p c s =
      (s.driveChan c true).setChan c { s.chan c with
        debt := BitVec.ofNat 18 (addDebt (s.chan c).debt (s.chan c).fire - 0x10000)
        bal := BitVec.ofInt 2 ((s.chan c).bal.toInt + p) } := by
  simp only [decideChan, if_neg hfull, if_neg hoff, hdebt, hmay, decide_true, Bool.and_self, if_true]

theorem decideChan_holdsOff
    (hhold : ¬ (0x10000 ≤ addDebt (s.chan c).debt (s.chan c).fire ∧ mayConduct (s.chan c).bal.toInt p = true)) :
    decideChan p c s = (s.driveChan c false).setChan c { s.chan c with
      debt := BitVec.ofNat 18 (addDebt (s.chan c).debt (s.chan c).fire) } := by
  rw [decideChan]
  simp only [if_neg hfull, if_neg hoff]
  exact if_neg (by simpa using hhold)

end

/-- Replacing a channel by one with the same pin number leaves its pin's level. -/
theorem chanPin_setChan (s : State) {c : ChanIx} {x : Channel} (hx : x.pinsel = (s.chan c).pinsel) :
    (s.setChan c x).chanPin c = s.chanPin c := by
  rw [State.chanPin, chan_setChan_same, pin_setChan, hx, State.chanPin]

/-- The decision has the outcome R207 gives, whatever the balance was: where it may conduct, the new balance fits `BAL`. -/
theorem decideChan_outcome {s : State} {c : ChanIx} {p : Int} (hp : p = 1 ∨ p = -1)
    (hpin : (s.chan c).pinsel.toNat < s.params.nPins) :
    BoundaryOutcome p (s.chan c) ((decideChan p c s).chan c) ((decideChan p c s).chanPin c) := by
  unfold BoundaryOutcome
  split
  · next hfull => rw [decideChan_full p hfull, chan_driveChan, chanPin_driveChan true hpin]; exact ⟨rfl, rfl⟩
  split
  · next hoff => rw [decideChan_off p hoff, chan_driveChan, chanPin_driveChan false hpin]; exact ⟨rfl, rfl⟩
  next hfull hoff =>
    have hle := addDebt_le (s.chan c).debt (s.chan c).fire
    dsimp only
    rw [← addDebt]
    split
    · next hconduct =>
      obtain ⟨hdebt, hmay⟩ := hconduct
      rw [decideChan_conducts p hfull hoff hdebt (mayConduct_iff.2 hmay), chan_setChan_same,
        chanPin_setChan _ (by rw [chan_driveChan]), chanPin_driveChan true hpin]
      exact ⟨by simp [SameConfiguration], rfl, rfl, debt_toNat (by omega), balance_toInt hp (mayConduct_iff.2 hmay)⟩
    · next hhold =>
      rw [decideChan_holdsOff p hfull hoff (by rwa [mayConduct_iff]), chan_setChan_same,
        chanPin_setChan _ (by rw [chan_driveChan]), chanPin_driveChan false hpin]
      exact ⟨by simp [SameConfiguration], rfl, rfl, debt_toNat hle, rfl⟩

/-! ### A boundary (R207) -/

theorem boundary_ucs (s : State) : (boundary s).ucs = { s.ucs with pol := !s.ucs.pol } := by
  rw [boundary_eq, (decided_walkFrame s).ucs]

/-- Every CS channel is decided with the polarity from before the boundary. -/
theorem boundary_taken {s : State} (hs : PinsSeparate s) : BoundaryTaken s (boundary s) := by
  refine ⟨by rw [boundary_ucs], by rw [boundary_ucs], fun c hc => ?_⟩
  obtain ⟨t, ht, hchan, hchanPin⟩ := chansOf_visits (decideChan_written (polarity s)) hs hc
  have houtcome := decideChan_outcome (polarity_eq s) (ht.pin_inRange hs hc)
  rw [← hchan, ← hchanPin, ht.chan] at houtcome
  exact houtcome

/-- A boundary of `t` is one of `s` when the work before it left the polarity, the semi-period and the CS channels. -/
theorem BoundaryTaken.after_same {s t r : State} (hreg : SameRegistration s t) (hsame : CsChannelsSame s t)
    (hsemi : t.ucs.semi = s.ucs.semi) (hpol : t.ucs.pol = s.ucs.pol) (h : BoundaryTaken t r) : BoundaryTaken s r := by
  obtain ⟨hsemi', hpol', houtcome⟩ := h
  refine ⟨hsemi'.trans hsemi, hpol ▸ hpol', fun c hc => ?_⟩
  obtain ⟨hchan, -⟩ := hsame c hc
  rw [← hpol, ← hchan]
  exact houtcome c ((hreg.inUnit .cs c).2 hc)

theorem decideChan_errFlags (p : Int) (c : ChanIx) (s : State) : (decideChan p c s).errFlags = s.errFlags := by
  obtain ⟨v, x, h, -⟩ := decideChan_cases p c s
  simp [h]

theorem boundary_errFlags (s : State) : (boundary s).errFlags = s.errFlags :=
  forChans_keeps (P := fun t => t.errFlags = s.errFlags) _ (fun c _ t ht => (decideChan_errFlags _ c t).trans ht) rfl

/-! ### The CSU part of `TICK` (R204, R205) -/

theorem csTick_stopped {s : State} (hstop : ¬ ∃ c, InUnit s .cs c) : csTick s = s := if_neg (mt run_iff.1 hstop)

section
variable {s : State} (hrun : ∃ c, InUnit s .cs c)
include hrun

theorem csTick_idle (hidle : s.ucs.semi = 0) : csTick s = s.setCount .cs 0 := by
  rw [csTick, if_pos (run_iff.2 hrun), if_pos hidle]

variable (hsemi : s.ucs.semi ≠ 0)
include hsemi

theorem csTick_counting (hbelow : s.ucs.count.toInt + 1 < s.ucs.semi.toNat) :
    csTick s = s.setCount .cs (s.ucs.count.toInt + 1) := by
  rw [csTick, if_pos (run_iff.2 hrun), if_neg hsemi]
  exact if_neg (Int.not_le.2 hbelow)

theorem csTick_boundary (hreached : (s.ucs.semi.toNat : Int) ≤ s.ucs.count.toInt + 1) :
    csTick s = (boundary (s.setCount .cs (s.ucs.count.toInt + 1))).setCount .cs 0 := by
  rw [csTick, if_pos (run_iff.2 hrun), if_neg hsemi]
  exact if_pos hreached

end

/-- The counter holds the next value below a semi-period (R38, R236). -/
theorem setCount_cs_next {s : State} (hbelow : s.ucs.count.toInt + 1 < s.ucs.semi.toNat) :
    (s.setCount .cs (s.ucs.count.toInt + 1)).ucs.count.toInt = s.ucs.count.toInt + 1 := by
  have hlo := BitVec.le_toInt s.ucs.count
  have hsemi := s.ucs.semi.isLt
  rw [setCount_cs_ucs]
  exact BitVec.toInt_ofInt_eq_self (by decide) (by omega) (by simp; omega)

/-- When the counter reaches the semi-period, the boundary is taken with the counter still counting, and the counter ends at 0. -/
theorem csTick_boundary_taken {s : State} (hs : PinsSeparate s) (hrun : ∃ c, InUnit s .cs c) (hsemi : s.ucs.semi ≠ 0)
    (hreached : (s.ucs.semi.toNat : Int) ≤ s.ucs.count.toInt + 1) :
    (csTick s).ucs.count = 0 ∧ BoundaryTaken s (csTick s) := by
  have htaken := boundary_taken (s := s.setCount .cs (s.ucs.count.toInt + 1)) ⟨hs.inRange, hs.distinct⟩
  rw [csTick_boundary hrun hsemi hreached]
  exact ⟨rfl, htaken⟩

theorem csTick_errFlags (s : State) : (csTick s).errFlags = s.errFlags := by
  unfold csTick
  split
  · split
    · rfl
    dsimp only
    split
    · exact boundary_errFlags _
    · rfl
  · rfl

theorem taken_sameRegistration (s : State) (rest : List Input) : SameRegistration s (taken s rest) :=
  ⟨rfl, fun _ => ⟨rfl, rfl, rfl⟩⟩

/-- Settles O30: the PCU part leaves unit CS as it is, so that each case is the one of the CSU part on the state it leaves. -/
theorem tickCycleStealing : Obligations.TickCycleStealing := by
  unfold Obligations.TickCycleStealing
  intro s rest hin hs
  have hpc : OutsideUnit s (pcTick (taken s rest)) .pc := pcTick_outsideUnit (taken s rest)
  have hreg := (taken_sameRegistration s rest).trans (pcTick_sameRegistration (taken s rest))
  have hucs : (pcTick (taken s rest)).ucs = s.ucs := pcTick_ucs (taken s rest)
  have hflags : (pcTick (taken s rest)).errFlags = s.errFlags := pcTick_errFlags (taken s rest)
  have hsame : CsChannelsSame s (pcTick (taken s rest)) := fun c hc => hpc.otherUnit_channel (by decide) hs hc
  refine ⟨_, step_of_tick hin, ?_⟩
  rw [tick]
  generalize pcTick (taken s rest) = t at hpc hreg hucs hflags hsame
  have running_iff : (∃ c, InUnit t .cs c) ↔ ∃ c, InUnit s .cs c := exists_congr (hreg.inUnit .cs)
  obtain ⟨hparams, hlut, hunregistered, hunowned⟩ := hpc.outsideUnits.trans (csTick_csWork t).outside.outsideUnits hreg
  rw [← running_iff, ← hucs]
  refine ⟨fun hstop => ?stopped, fun hrun hidle => ?idle, fun hrun hsemi hbelow => ?counting, fun hrun hsemi hreached => ?boundary,
    hunregistered, hunowned, hparams, hlut, (csTick_errFlags t).trans hflags⟩
  case stopped => rw [csTick_stopped hstop]
  case idle =>
    rw [csTick_idle hrun hidle]
    exact ⟨rfl, hsame⟩
  case counting =>
    rw [csTick_counting hrun hsemi hbelow]
    exact ⟨setCount_cs_next hbelow, rfl, rfl, hsame⟩
  case boundary =>
    obtain ⟨hcount, htaken⟩ := csTick_boundary_taken (hreg.pinsSeparate hs) hrun hsemi hreached
    exact ⟨hcount, htaken.after_same hreg hsame (by rw [hucs]) (by rw [hucs])⟩

end Sys2Proof.Machine

/-! The read-back and housekeeping commands (R230 to R235): the words that stand for them, the views `GET` and `GETU` answer field by
field, and the five commands' effects, each of which is a response but for the flags `CLRERR` clears. -/

namespace Sys2Proof.Machine

/-! ### The words (R81, R82, R88) -/

/-- A command is encoded as `op`, `ch` and `imm` if these are the fields of the words of its opcode that decode to it (R81, R85). -/
theorem encodedAs_of_fields {nCh ch imm : Nat} {i : Instr} (hch : ch < 16) (himm : imm < 2 ^ 24)
    (h : ∀ w, (opField w).toNat = opcode i → (decode nCh w = .ok i ↔ (chField w).toNat = ch ∧ (immField w).toNat = imm)) :
    EncodedAs nCh i (opcode i * 2 ^ 28 + ch * 2 ^ 24 + imm) := by
  intro w
  rw [toNat_eq_fields hch himm]
  constructor
  · intro hw
    have hop := opField_of_decode hw
    exact ⟨hop, (h w hop).1 hw⟩
  · rintro ⟨hop, hfields⟩
    exact (h w hop).2 hfields

/-- The same for a command whose `ch` is zero (R88 test 4). -/
theorem encodedAs_withoutChannel {nCh op imm : Nat} {i : Instr} (hop : opcode i = op) (himm : imm < 2 ^ 24)
    (h : ∀ w, (opField w).toNat = op → (decode nCh w = .ok i ↔ chField w = 0 ∧ (immField w).toNat = imm)) :
    EncodedAs nCh i (op * 2 ^ 28 + imm) := by
  subst hop
  rw [← Nat.add_zero (opcode i * 2 ^ 28), ← Nat.zero_mul (2 ^ 24)]
  exact encodedAs_of_fields (by decide) himm fun w hw => (h w hw).trans (and_congr_left' BitVec.toNat_inj.symm)

/-- An operand in the low byte of `imm`, the other bits being zero (formats `K` and `M` of R82), is the number of `imm`. -/
theorem lowByte_iff {v : BitVec 24} {b : BitVec 8} : v.toNat < 2 ^ 8 ∧ v.extractLsb' 0 8 = b ↔ v.toNat = b.toNat := by
  rw [← BitVec.toNat_inj, BitVec.extractLsb'_toNat, Nat.shiftRight_zero]
  omega

/-- The selector codes are the numbers of the table of R231. -/
theorem chanSel_code_toNat (k : ChanSel) : k.code.toNat = chanSelNumber k := by cases k <;> rfl

/-- The selector codes are the numbers of the table of R233. -/
theorem unitSel_code_toNat (k : UnitSel) : k.code.toNat = unitSelNumber k := by cases k <;> rfl

theorem chanSelNumber_lt (k : ChanSel) : chanSelNumber k < 2 ^ 8 := chanSel_code_toNat k ▸ k.code.isLt

theorem unitSelNumber_lt (k : UnitSel) : unitSelNumber k < 2 ^ 8 := unitSel_code_toNat k ▸ k.code.isLt

theorem chanSel_ofCode_eq_some {b : BitVec 8} {k : ChanSel} : ChanSel.ofCode b = some k ↔ b = k.code :=
  ⟨fun h => (chanSel_code_of_ofCode h).symm, fun h => h ▸ chanSel_ofCode_code k⟩

theorem unitSel_ofCode_eq_some {b : BitVec 8} {k : UnitSel} : UnitSel.ofCode b = some k ↔ b = k.code :=
  ⟨fun h => (unitSel_code_of_ofCode h).symm, fun h => h ▸ unitSel_ofCode_code k⟩

/-- `GET`'s format decodes to the channel in `ch` and the selector in the low byte of `imm` (R82, R88). -/
theorem decodeGet_eq_ok_iff {nCh : Nat} {w : Word} {c : ChanIx} {k : ChanSel} : decodeGet nCh w = .ok (.get c k) ↔
    (chField w).toNat < nCh ∧ (immField w).toNat < 2 ^ 8 ∧ (chField w).toFin = c ∧
      ChanSel.ofCode ((immField w).extractLsb' 0 8) = some k := by
  rw [decodeGet, withChannel_eq_ok, withReserved_eq_ok]
  split <;> simp [*]

/-- `GETU`'s format decodes to the unit in `ch` and the selector in the low byte of `imm` (R82, R88). -/
theorem decodeGetU_eq_ok_iff {w : Word} {u : UnitId} {k : UnitSel} : decodeGetU w = .ok (.getU u k) ↔
    (chField w).toNat ≤ 1 ∧ (immField w).toNat < 2 ^ 8 ∧ UnitId.ofCode ((chField w).getLsbD 0) = u ∧
      UnitSel.ofCode ((immField w).extractLsb' 0 8) = some k := by
  rw [decodeGetU, withUnit_eq_ok, withReserved_eq_ok]
  split <;> simp [*]

/-- `GETLUT`'s format decodes to the index that is the whole of `imm` (R82, R88). -/
theorem decodeGetLut_eq_ok_iff {w : Word} {i : Fin 80} :
    decodeGetLut w = .ok (.getLut i) ↔ chField w = 0 ∧ (immField w).toNat = i.val := by
  rw [decodeGetLut, withoutChannel_eq_ok]
  split
  · simp [Fin.ext_iff]
  · simp only [reduceCtorEq, and_false, false_iff, not_and]
    omega

theorem encodedAs_nop (nCh : Nat) : EncodedAs nCh .nop 0 :=
  encodedAs_withoutChannel (op := 0) (imm := 0) rfl (by decide) fun w hw => by
    simp only [decode, hw, withoutChannel_eq_ok, withReserved_eq_ok, pow_zero, Nat.lt_one_iff, and_true]

theorem encodedAs_get {nCh : Nat} {c : ChanIx} (hc : c.val < nCh) (k : ChanSel) :
    EncodedAs nCh (.get c k) (0xA * 2 ^ 28 + c.val * 2 ^ 24 + chanSelNumber k) := by
  have hk := chanSelNumber_lt k
  refine encodedAs_of_fields c.isLt (by omega) fun w hw => ?_
  have hdecode : decode nCh w = decodeGet nCh w := by simp only [decode, hw, opcode]
  rw [hdecode, decodeGet_eq_ok_iff, chanSel_ofCode_eq_some, ← chanSel_code_toNat, ← lowByte_iff]
  constructor
  · rintro ⟨-, hreserved, rfl, hsel⟩
    exact ⟨rfl, hreserved, hsel⟩
  · rintro ⟨hch, hreserved, hsel⟩
    exact ⟨hch ▸ hc, hreserved, Fin.ext hch, hsel⟩

theorem encodedAs_getU (nCh : Nat) (u : UnitId) (k : UnitSel) :
    EncodedAs nCh (.getU u k) (0xB * 2 ^ 28 + unitCode u * 2 ^ 24 + unitSelNumber k) := by
  have hu := unitCode_lt u
  have hk := unitSelNumber_lt k
  refine encodedAs_of_fields (by omega) (by omega) fun w hw => ?_
  have hdecode : decode nCh w = decodeGetU w := by simp only [decode, hw, opcode]
  rw [hdecode, decodeGetU_eq_ok_iff, unitSel_ofCode_eq_some, ← unitSel_code_toNat, ← lowByte_iff, ← unitField_eq_iff]
  tauto

theorem encodedAs_getLut (nCh : Nat) (i : Fin 80) : EncodedAs nCh (.getLut i) (0xC * 2 ^ 28 + i.val) :=
  encodedAs_withoutChannel rfl (by omega) fun w hw => by
    simp only [decode, hw, decodeGetLut_eq_ok_iff]

theorem encodedAs_clrErr (nCh : Nat) (m : BitVec 8) : EncodedAs nCh (.clrErr m) (0xD * 2 ^ 28 + m.toNat) :=
  encodedAs_withoutChannel rfl (by omega) fun w hw => by
    simp only [decode, hw, withoutChannel_eq_ok, withReserved_eq_ok, Except.ok.injEq, Instr.clrErr.injEq, lowByte_iff]

/-! ### Registers as 32-bit views (R11) -/

theorem viewU_toNat {n : Nat} (hn : n ≤ 32) (v : BitVec n) : (viewU v).toNat = v.toNat := BitVec.toNat_setWidth_of_le hn

theorem viewS_toInt {n : Nat} (hn : n ≤ 32) (v : BitVec n) : (viewS v).toInt = v.toInt := BitVec.toInt_signExtend_of_le hn

/-! ### The `CTRL` view (R232) -/

theorem phase_off {s : State} {c : ChanIx}
    (h : (s.chan c).enabled = false ∨ ((s.chan c).pend = none ∧ s.chanPin c = false)) : phase s c = .off := by
  obtain hdis | ⟨hpend, hpin⟩ := h
  · simp [phase, hdis]
  · simp [phase, hpend, hpin]

theorem phase_waiting {s : State} {c : ChanIx} (he : (s.chan c).enabled = true) (hpend : (s.chan c).pend ≠ none) :
    phase s c = .waiting := by
  simp [phase, he, Option.isSome_iff_ne_none.2 hpend]

theorem phase_conducting {s : State} {c : ChanIx} (he : (s.chan c).enabled = true) (hpend : (s.chan c).pend = none)
    (hpin : s.chanPin c = true) : phase s c = .conducting := by
  simp [phase, he, hpend, hpin]

/-- The low byte of `CTRL`, bit by bit. -/
theorem ctrlView_flags (s : State) (c : ChanIx) :
    (ctrlView s c).getLsbD 0 = (s.chan c).enabled ∧ (ctrlView s c).getLsbD 1 = (s.chan c).online ∧
    (ctrlView s c).getLsbD 2 = (s.chan c).lutEn ∧ (ctrlView s c).getLsbD 3 = decide ((s.chan c).mode = .cs) ∧
    (ctrlView s c).getLsbD 4 = isOn (s.chan c) ∧ (ctrlView s c).getLsbD 5 = isFull (s.chan c) ∧
    (ctrlView s c).getLsbD 6 = pinLevel s c ∧ (ctrlView s c).getLsbD 7 = false := by
  simp only [ctrlView, BitVec.append_ofBool, BitVec.getLsbD_concat_succ, BitVec.getLsbD_concat_zero, BitVec.getLsbD_append]
  simp

/-- The fields of `CTRL` above its low byte. -/
theorem ctrlView_upper (s : State) (c : ChanIx) :
    (ctrlView s c).extractLsb' 8 2 = (phase s c).code ∧ (ctrlView s c).extractLsb' 10 6 = 0 ∧
    (ctrlView s c).extractLsb' 16 8 = (s.chan c).pinsel ∧ (ctrlView s c).extractLsb' 24 8 = 0 := by
  simp (disch := decide) only [ctrlView, BitVec.extractLsb'_append_eq_of_le, BitVec.extractLsb'_append_eq_of_add_le, Nat.reduceSub,
    BitVec.extractLsb'_eq_self, and_self]

theorem ctrlView_fields (s : State) (c : ChanIx) : CtrlFields s c (ctrlView s c) := by
  obtain ⟨henabled, honline, hlutEn, hmode, hisOn, hisFull, hpinLevel, hbit7⟩ := ctrlView_flags s c
  obtain ⟨hphase, hbits10, hpinsel, hbits24⟩ := ctrlView_upper s c
  exact {
    enabled := henabled
    online := honline
    lutEn := hlutEn
    mode := by rw [hmode, decide_eq_true_eq]
    isOn := by rw [hisOn, isOn, Bool.and_eq_true, decide_eq_true_eq]
    isFull := by rw [hisFull, isFull, decide_eq_true_eq, BitVec.le_def]
    pinLevel := by rw [hpinLevel, pinLevel, Bool.and_eq_true]
    phase_off := fun h => by rw [hphase, phase_off h]; rfl
    phase_waiting := fun he hpend => by rw [hphase, phase_waiting he hpend]; rfl
    phase_conducting := fun he hpend hpin => by rw [hphase, phase_conducting he hpend hpin]; rfl
    pinsel := hpinsel
    reserved := ⟨hbit7, hbits10, hbits24⟩ }

/-! ### The views of a unit (R233) -/

theorem ustatView_toNat_lt (s : State) (u : UnitId) : (ustatView s u).toNat < 8 := by
  rw [ustatView]
  generalize polView s u = pol, armedView s u = armed, s.run u = run
  revert pol armed run
  decide

theorem ustatView_flags (s : State) (u : UnitId) :
    (ustatView s u).getLsbD 0 = s.run u ∧ (ustatView s u).getLsbD 1 = armedView s u ∧ (ustatView s u).getLsbD 2 = polView s u := by
  simp only [ustatView, BitVec.append_ofBool, BitVec.getLsbD_concat_succ, BitVec.getLsbD_concat_zero, and_self]

theorem armedView_cs {s : State} : armedView s .cs = true ↔ (∃ c, InUnit s .cs c) ∧ s.ucs.semi ≠ 0 := by
  rw [armedView, Bool.and_eq_true, run_iff, decide_eq_true_eq]

theorem ustatView_fields (s : State) (u : UnitId) : UstatFields s u (ustatView s u) := by
  obtain ⟨hrun, harmed, hpol⟩ := ustatView_flags s u
  exact {
    run := by rw [hrun, run_iff]
    armed_pc := by rintro rfl; exact harmed
    armed_cs := by rintro rfl; rw [harmed, armedView_cs]
    pol_pc := by rintro rfl; exact hpol
    pol_cs := by rintro rfl; exact hpol
    reserved := ustatView_toNat_lt s u }

/-- The pins at and above `N_PINS` are not shown; those below fit the word (R8). -/
theorem pinsView_getLsbD (s : State) (p : Nat) : (pinsView s).getLsbD p = (decide (p < s.params.nPins) && s.pins.getLsbD p) := by
  have hrange := s.params.nPins_range.2
  rw [pinsView, BitVec.getLsbD_setWidth, BitVec.getLsbD_setWidth]
  by_cases hp : p < s.params.nPins
  · simp [hp, hp.trans_le hrange]
  · simp [hp]

/-! ### The commands -/

theorem exec_nop (s : State) : exec .nop s = .next (s.respond false 0) := rfl

theorem exec_get {s : State} {c : ChanIx} (hc : c.val < s.params.nCh) (k : ChanSel) :
    exec (.get c k) s = .next (s.respond false (chanView s c k)) := by
  simp only [exec, execGet, onChannel_next hc]

theorem exec_getU (s : State) (u : UnitId) (k : UnitSel) : exec (.getU u k) s = .next (s.respond false (unitView s u k)) := rfl

theorem exec_getLut (s : State) (i : Fin 80) :
    exec (.getLut i) s = .next (s.respond false (BitVec.ofNat 32 (lutEntry s.lut i.val))) := rfl

theorem exec_clrErr (s : State) (m : BitVec 8) :
    exec (.clrErr m) s = .next ({ s with errFlags := s.errFlags &&& ~~~m }.respond false 1) := rfl

/-- Settles O24: `GET` only answers, and each selector's view holds what R231 and R232 name. -/
theorem getReadsView : Obligations.GetReadsView := by
  unfold Obligations.GetReadsView
  intro s c k hc
  refine ⟨encodedAs_get hc k, _, exec_get hc k, ?_⟩
  cases k with
  | ctrl => exact ctrlView_fields s c
  | pend => exact ⟨fun h => by rw [chanView, h]; rfl, fun t h => by rw [chanView, h]; exact viewU_toNat (by decide) t⟩
  | bal => exact viewS_toInt (by decide) _
  | duty | limit | min | max | mapped | fire | debt => exact viewU_toNat (by decide) _

/-- Settles O25: `GETU` only answers, and each selector's view holds what R233 names. -/
theorem getUReadsView : Obligations.GetUReadsView := by
  unfold Obligations.GetUReadsView
  intro s u k
  refine ⟨encodedAs_getU _ u k, _, exec_getU s u k, ?_⟩
  cases k with
  | semi => exact viewU_toNat (by decide) _
  | count => exact viewS_toInt (by decide) _
  | alarm =>
    constructor
    · rintro rfl
      exact viewU_toNat (by decide) s.upc.alarm
    · rintro rfl
      exact viewU_toNat (by decide) s.ucs.semi
  | ustat => exact ustatView_fields s u
  | errflags => exact viewU_toNat (by decide) _
  | pins => exact pinsView_getLsbD s

/-- `NOP` is the only command with `op = 0` (R85). -/
theorem opcode_eq_zero {i : Instr} : opcode i = 0 ↔ i = .nop := by cases i <;> simp [opcode]

/-- Settles O23: a word with `op = 0` decodes to nothing but `NOP`, whose word is 0. -/
theorem nopAnswersZero : Obligations.NopAnswersZero := by
  unfold Obligations.NopAnswersZero
  intro s
  refine ⟨encodedAs_nop _, fun w hne hlt => ?_, exec_nop s⟩
  cases hw : decode s.params.nCh w with
  | error e => exact ⟨e, rfl⟩
  | ok i =>
    have hop : opcode i = 0 := by
      rw [← opField_of_decode hw, opField_toNat]
      omega
    obtain rfl := opcode_eq_zero.1 hop
    exact absurd ((encodedAs_nop _ w).1 hw) hne

/-- Settles O26: a table entry fits the response, so that `GETLUT` answers it whole. -/
theorem getLutReadsEntry : Obligations.GetLutReadsEntry := by
  unfold Obligations.GetLutReadsEntry
  intro s i
  refine ⟨encodedAs_getLut _ i, _, exec_getLut s i, ?_⟩
  have hlt := lutEntry_lt s.lut i.val
  rw [BitVec.toNat_ofNat, Nat.mod_eq_of_lt (by omega), lutEntry_of_lt s.lut i.isLt, Fin.getElem_fin]

/-- Settles O27: the flags left are those outside the mask. -/
theorem clearErrorsByMask : Obligations.ClearErrorsByMask := by
  unfold Obligations.ClearErrorsByMask
  intro s m
  refine ⟨encodedAs_clrErr _ m, _, exec_clrErr s m, fun j => ?_⟩
  rw [BitVec.getLsbD_and, BitVec.getLsbD_not]
  by_cases hj : j < 8
  · simp only [hj, decide_true, Bool.true_and]
  · simp only [BitVec.getLsbD_of_ge s.errFlags j (by omega), Bool.false_and]

end Sys2Proof.Machine

/-! The encoder and the decoder are inverse to each other (R81, R82, R88): per command, its encoding is the word that the `encodedAs`
lemmas of its format number, and a legal word names an existing channel. -/

namespace Sys2Proof.Machine

/-- A command's encoding has the number that its fields make (R81). -/
theorem encodedAs_of_layout {nCh o c n : Nat} {i : Instr} {op ch : BitVec 4} {imm : BitVec 24} (hw : encode i = layout op ch imm)
    (hop : op.toNat = o) (hch : ch.toNat = c) (himm : imm.toNat = n) (h : EncodedAs nCh i (o * 2 ^ 28 + c * 2 ^ 24 + n)) :
    EncodedAs nCh i (encode i).toNat := by
  subst hop hch himm
  have hnumber : (layout op ch imm).toNat = op.toNat * 2 ^ 28 + ch.toNat * 2 ^ 24 + imm.toNat :=
    (toNat_eq_fields ch.isLt imm.isLt).2 ⟨by rw [opField_layout], by rw [chField_layout], by rw [immField_layout]⟩
  rwa [hw, hnumber]

theorem chanField_toNat (c : ChanIx) : (chanField c).toNat = c.val := rfl

theorem unitField_toNat_eq (u : UnitId) : (unitField u).toNat = unitCode u := by cases u <;> rfl

/-- An operand narrower than `imm` keeps its number (R82). -/
theorem operand_toNat {n : Nat} (hn : n ≤ 24) (v : BitVec n) : (v.setWidth 24).toNat = v.toNat := BitVec.toNat_setWidth_of_le hn

theorem flagOperand_toNat (b : Bool) : ((BitVec.ofBool b).setWidth 24).toNat = b.toNat := by cases b <;> rfl

/-- Format `P` (R82): the unit in bit 8, the pin below it. -/
theorem formatP_toNat (m : UnitId) (p : BitVec 8) :
    ((BitVec.ofBool m.code ++ p).setWidth 24).toNat = unitCode m * 2 ^ 8 + p.toNat := by
  rw [operand_toNat (by decide), BitVec.toNat_append, ← Nat.shiftLeft_add_eq_or_of_lt p.isLt, Nat.shiftLeft_eq]
  cases m <;> rfl

/-- A channel command is legal exactly if its channel exists (R88 test 2). -/
theorem wf_iff_of_channel {nCh : Nat} {i : Instr} {c : ChanIx} (hc : i.channel = some c) : i.wf nCh = true ↔ c.val < nCh := by
  simp only [Instr.wf, hc, decide_eq_true_eq]

/-- The word that stands for a legal command is its encoding. -/
theorem encodedAs_encode {nCh : Nat} {i : Instr} (h : i.wf nCh = true) : EncodedAs nCh i (encode i).toNat := by
  have exists_channel {c : ChanIx} (hc : i.channel = some c) : c.val < nCh := (wf_iff_of_channel hc).1 h
  cases i with
  | nop => exact encodedAs_nop nCh
  | beginChan c m p =>
    have hword := encodedAs_beginChan (exists_channel rfl) m p
    rw [Nat.add_assoc _ (unitCode m * 2 ^ 8)] at hword
    exact encodedAs_of_layout rfl rfl (chanField_toNat c) (formatP_toNat m p) hword
  | endChan c =>
    have hword := encodedAs_endChan (exists_channel rfl)
    rw [← Nat.add_zero (_ + _)] at hword
    exact encodedAs_of_layout rfl rfl (chanField_toNat c) rfl hword
  | setDuty c v => exact encodedAs_of_layout rfl rfl (chanField_toNat c) rfl (encodedAs_setDuty (exists_channel rfl) v)
  | setLimit c v => exact encodedAs_of_layout rfl rfl (chanField_toNat c) rfl (encodedAs_setLimit (exists_channel rfl) v)
  | setMin c v => exact encodedAs_of_layout rfl rfl (chanField_toNat c) rfl (encodedAs_setMin (exists_channel rfl) v)
  | setMax c v => exact encodedAs_of_layout rfl rfl (chanField_toNat c) rfl (encodedAs_setMax (exists_channel rfl) v)
  | setOnline c b =>
    exact encodedAs_of_layout rfl rfl (chanField_toNat c) (flagOperand_toNat b) (encodedAs_setOnline (exists_channel rfl) b)
  | setLut c b =>
    exact encodedAs_of_layout rfl rfl (chanField_toNat c) (flagOperand_toNat b) (encodedAs_setLut (exists_channel rfl) b)
  | setSemi u p =>
    exact encodedAs_of_layout rfl rfl (unitField_toNat_eq u) (operand_toNat (by decide) p) (encodedAs_setSemi nCh u p)
  | get c k =>
    exact encodedAs_of_layout rfl rfl (chanField_toNat c) ((operand_toNat (by decide) _).trans (chanSel_code_toNat k))
      (encodedAs_get (exists_channel rfl) k)
  | getU u k =>
    exact encodedAs_of_layout rfl rfl (unitField_toNat_eq u) ((operand_toNat (by decide) _).trans (unitSel_code_toNat k))
      (encodedAs_getU nCh u k)
  | getLut i =>
    have hword := encodedAs_getLut nCh i
    rw [← Nat.add_zero (0xC * 2 ^ 28), ← Nat.zero_mul (2 ^ 24)] at hword
    exact encodedAs_of_layout rfl rfl rfl (by rw [BitVec.toNat_ofNat, Nat.mod_eq_of_lt (by omega)]) hword
  | clrErr m =>
    have hword := encodedAs_clrErr nCh m
    rw [← Nat.add_zero (0xD * 2 ^ 28), ← Nat.zero_mul (2 ^ 24)] at hword
    exact encodedAs_of_layout rfl rfl rfl (operand_toNat (by decide) m) hword

/-- A legal word names an existing channel or none (R88 test 2). -/
theorem wf_of_decode {nCh : Nat} {w : Word} {i : Instr} (h : decode nCh w = .ok i) : i.wf nCh = true := by
  unfold decode at h
  split at h
  case h_11 =>
    obtain ⟨c, k, rfl⟩ := decodeGet_eq_ok h
    obtain ⟨hch, -, rfl, -⟩ := decodeGet_eq_ok_iff.1 h
    exact decide_eq_true hch
  case h_12 => obtain ⟨u, k, rfl⟩ := decodeGetU_eq_ok h; rfl
  case h_13 => obtain ⟨k, rfl⟩ := decodeGetLut_eq_ok h; rfl
  case h_15 => cases h
  all_goals
    revert h
    simp only [decodeBegin, decodeD, decodeB, withChannel_eq_ok, withUnit_eq_ok, withoutChannel_eq_ok, withReserved_eq_ok,
      Except.ok.injEq, and_imp]
    intros
    subst i
    simp [Instr.wf, Instr.channel, *]

/-- Settles O1: the encoding is the word that decodes to the command. -/
theorem decodeOfEncode : Obligations.DecodeOfEncode := by
  unfold Obligations.DecodeOfEncode
  exact fun _ i h => (encodedAs_encode h (encode i)).2 rfl

/-- Settles O2: only one word decodes to a legal command, and that is its encoding. -/
theorem encodeOfDecode : Obligations.EncodeOfDecode := by
  unfold Obligations.EncodeOfDecode
  intro nCh w i h
  have hwf := wf_of_decode h
  exact ⟨BitVec.eq_of_toNat_eq ((encodedAs_encode hwf w).1 h).symm, hwf⟩

/-- Settles O5: each word evaluated by the decoder. -/
theorem specWordsDecode : Obligations.SpecWordsDecode := by
  unfold Obligations.SpecWordsDecode
  exact ⟨rfl, rfl, rfl, rfl, rfl, rfl, rfl, rfl, rfl, rfl, rfl, rfl, rfl⟩

end Sys2Proof.Machine

/-! Every command, in every state (R86, R88, R250, R260): it is refused and changes one flag, or it is accepted, and then what
`Accepted` says holds, whatever the bounds of the channels are. The shared operations of the commands never do more than `HostWork`. -/

namespace Sys2Proof.Machine

/-! ### What the commands' operations never do (R260) -/

/-- What no command does, whichever it is: no pin rose, no modulator register changed, unit CS's counter stayed or was zeroed, and
the parameters and the table stay. -/
structure HostLimits (s t : State) : Prop where
  params : t.params = s.params
  lut : t.lut = s.lut
  pin_le : ∀ p, t.pin p = true → s.pin p = true
  modulator : ∀ c, (t.chan c).debt = (s.chan c).debt ∧ (t.chan c).bal = (s.chan c).bal
  count : t.ucs.count = s.ucs.count ∨ t.ucs.count = 0

theorem HostLimits.trans {s t r : State} (h : HostLimits s t) (h' : HostLimits t r) : HostLimits s r where
  params := h'.params.trans h.params
  lut := h'.lut.trans h.lut
  pin_le p hp := h.pin_le p (h'.pin_le p hp)
  modulator c := ⟨(h'.modulator c).1.trans (h.modulator c).1, (h'.modulator c).2.trans (h.modulator c).2⟩
  count := h'.count.elim (fun hkept => hkept ▸ h.count) .inr

/-- Work within these limits that writes neither the flags nor the polarity. -/
structure HostWork (s t : State) : Prop extends HostLimits s t where
  errFlags : t.errFlags = s.errFlags
  pol : t.ucs.pol = s.ucs.pol

theorem hostWork_refl (s : State) : HostWork s s := ⟨⟨rfl, rfl, fun _ => id, fun _ => ⟨rfl, rfl⟩, .inl rfl⟩, rfl, rfl⟩

theorem HostWork.trans {s t r : State} (h : HostWork s t) (h' : HostWork t r) : HostWork s r :=
  ⟨h.toHostLimits.trans h'.toHostLimits, h'.errFlags.trans h.errFlags, h'.pol.trans h.pol⟩

/-- A channel rewritten but for its modulator registers. -/
theorem hostWork_setChan {s : State} {c : ChanIx} {x : Channel} (hdebt : x.debt = (s.chan c).debt) (hbal : x.bal = (s.chan c).bal) :
    HostWork s (s.setChan c x) := by
  refine ⟨⟨rfl, rfl, fun _ => id, fun k => ?_, .inl rfl⟩, rfl, rfl⟩
  by_cases hk : k = c
  · subst hk; rw [chan_setChan_same]; exact ⟨hdebt, hbal⟩
  · rw [chan_setChan_ne _ _ hk]; exact ⟨rfl, rfl⟩

/-- `apply(c)` only takes a pin low (R113). -/
theorem hostWork_applyOff (c : ChanIx) (s : State) : HostWork s (applyOff c s) := by
  by_cases hoff : (s.chan c).enabled = true ∧ (s.chan c).fire = 0
  · obtain ⟨hwritten, hchan, hothers, ⟨hparams, hlut, hflags, hucs, -⟩, -⟩ := applyOff_off hoff.1 hoff.2
    refine ⟨⟨hparams, hlut, fun p hp => ?_, fun k => ?_, .inl (by rw [hucs])⟩, hflags, by rw [hucs]⟩
    · by_cases hpc : p = (s.chan c).pinsel
      · simp [hpc, hwritten.pin_low] at hp
      · rwa [hwritten.other_pins p hpc] at hp
    · by_cases hk : k = c
      · subst hk; rw [hchan]; exact ⟨rfl, rfl⟩
      · rw [hothers k hk]; exact ⟨rfl, rfl⟩
  · rw [applyOff_keep hoff]
    exact hostWork_refl s

theorem hostWork_setDuty (c : ChanIx) (v : Int) (s : State) : HostWork s (setDuty c v s) := by
  have hstore : HostWork s (storeDuty c v s) := hostWork_setChan rfl rfl
  unfold setDuty
  dsimp only
  split
  · exact hstore.trans (hostWork_applyOff c _)
  · exact hstore

theorem hostWork_reapply (c : ChanIx) (s : State) : HostWork s (reapply c s) := hostWork_setDuty c _ s

/-- `END` only takes a pin low and may stop a unit (R163, R164). -/
theorem hostWork_unregister (c : ChanIx) (s : State) : HostWork s (unregister c s) := by
  have hended := unregister_ended c s
  obtain ⟨hparams, hlut, hflags, -⟩ := hended.frame
  refine ⟨⟨hparams, hlut, fun p hp => (hended.pin_le p hp).1, fun k => ?_, hended.count .cs⟩, hflags, ?_⟩
  · by_cases hk : k = c
    · subst hk; rw [hended.released]; exact ⟨rfl, rfl⟩
    · rw [hended.others k hk]; exact ⟨rfl, rfl⟩
  · cases hm : (s.chan c).mode
    · obtain ⟨-, -, -, hucs⟩ := hended.pc_unit hm
      rw [hucs]
    · obtain ⟨-, -, hpol⟩ := hended.cs_unit hm
      exact hpol

theorem hostWork_semiWritten (u : UnitId) (p : Ticks) (s : State) : HostWork s (semiWritten u p s) := by
  have hfile := semiWritten_sameFile u p s
  obtain ⟨hlut, hflags, -⟩ := semiWritten_frame u p s
  refine ⟨⟨hfile.params, hlut, fun q hq => by rwa [hfile.pin] at hq, fun c => by rw [hfile.chans]; exact ⟨rfl, rfl⟩, ?_⟩, hflags,
    semiWritten_pol u p s⟩
  rw [semiWritten_ucs_count]
  split
  · exact .inr rfl
  · exact .inl rfl

theorem hostWork_storeSemi (u : UnitId) (p : Ticks) (s : State) : HostWork s (storeSemi u p s) := by
  rw [storeSemi_eq]
  exact forChans_keeps (P := HostWork s) _ (fun c _ t ht => ht.trans (hostWork_reapply c t)) (hostWork_semiWritten u p s)

/-! ### A command is refused or accepted (R86, R250) -/

/-- What an accepted command never does (R260): `t` is what it leaves but for the response. Only `CLRERR` writes a flag, and only the
`BEGIN` that starts unit CS writes the polarity. -/
structure Accepted (i : Instr) (s t : State) : Prop extends HostLimits s t where
  errFlags : (∀ m, i ≠ .clrErr m) → t.errFlags = s.errFlags
  pol : t.ucs.pol = s.ucs.pol ∨ t.ucs.pol = false ∧ (¬ ∃ k, InUnit s .cs k) ∧ ∃ c p, i = .beginChan c .cs p

theorem HostWork.accepted {s t : State} (h : HostWork s t) (i : Instr) : Accepted i s t :=
  ⟨h.toHostLimits, fun _ => h.errFlags, .inl h.pol⟩

theorem Accepted.trans_hostWork {i : Instr} {s t r : State} (h : Accepted i s t) (h' : HostWork t r) : Accepted i s r :=
  ⟨h.toHostLimits.trans h'.toHostLimits, fun hi => h'.errFlags.trans (h.errFlags hi), by rw [h'.pol]; exact h.pol⟩

/-- Registering a channel takes its pin low and may start its unit (R161, R162). -/
theorem Begun.accepted {s b : State} {c : ChanIx} {m : UnitId} {p : BitVec 8} (h : Begun s c m p b) :
    Accepted (.beginChan c m p) s b := by
  obtain ⟨hparams, hlut, hflags, -⟩ := h.frame
  obtain ⟨-, hucs⟩ := h.units
  refine ⟨⟨hparams, hlut, h.pin_le, fun k => ?_, ?_⟩, fun _ => hflags, ?_⟩
  · by_cases hk : k = c
    · subst hk; rw [h.registered]; exact ⟨rfl, rfl⟩
    · rw [h.others k hk]; exact ⟨rfl, rfl⟩
  · obtain hucs | ⟨-, hucs⟩ := hucs
    · exact .inl (by rw [hucs])
    · exact .inr (by rw [hucs])
  · obtain hucs | ⟨⟨rfl, hstopped⟩, hucs⟩ := hucs
    · exact .inl (by rw [hucs])
    · exact .inr ⟨by rw [hucs], hstopped, c, p, rfl⟩

theorem register_accepted (c : ChanIx) (m : UnitId) (p : BitVec 8) (s : State) :
    Accepted (.beginChan c m p) s (register c m p s) :=
  (begun_registered c m p s).accepted.trans_hostWork (hostWork_reapply c _)

/-- The next state of command `i`: `raise` of an error a command can raise, or accepted, with a response. -/
inductive CommandOutcome (i : Instr) (s : State) : State → Prop where
  | refused (e : ErrorCode) (he : e ≠ .timing) : CommandOutcome i s (s.raise e)
  | accepted {t : State} (d : Word) (h : Accepted i s t) : CommandOutcome i s (t.respond false d)

theorem onChannel_missing {c : ChanIx} {s : State} (hc : s.params.nCh ≤ c.val) (body : State → State) :
    onChannel c s body = .next (s.raise .illegal) := by
  simp [onChannel, hc]

/-- A command of a channel that does not exist is refused (R88 test 2). -/
theorem exec_missing {i : Instr} {c : ChanIx} {s : State} (hi : i.channel = some c) (hc : s.params.nCh ≤ c.val) :
    exec i s = .next (s.raise .illegal) := by
  cases i with
  | nop | setSemi | getU | getLut | clrErr => cases hi
  | beginChan | endChan | setDuty | setLimit | setMin | setMax | setOnline | setLut | get =>
    cases hi
    simp only [exec, execBegin, execEnd, execSetDuty, execSetLimit, execSetMin, execSetMax, execSetOnline, execSetLut, execGet,
      onChannel_missing hc]

/-- A command that only answers. -/
theorem commandOutcome_respond (i : Instr) (s : State) (d : Word) : CommandOutcome i s (s.respond false d) :=
  .accepted d ((hostWork_refl s).accepted i)

/-- A configuration register written and the duty re-applied. -/
theorem commandOutcome_reconfigure (i : Instr) {s : State} {c : ChanIx} {x : Channel} (hdebt : x.debt = (s.chan c).debt)
    (hbal : x.bal = (s.chan c).bal) : CommandOutcome i s ((reapply c (s.setChan c x)).respond false 1) :=
  .accepted 1 (((hostWork_setChan hdebt hbal).trans (hostWork_reapply c _)).accepted i)

/-- The outcome of a legal command: each by its equations. -/
theorem exec_outcome_of_wf {i : Instr} {s t : State} (hwf : i.wf s.params.nCh = true) (h : exec i s = .next t) :
    CommandOutcome i s t := by
  have exists_channel {c : ChanIx} (hc : i.channel = some c) : c.val < s.params.nCh := (wf_iff_of_channel hc).1 hwf
  cases i with
  | nop => cases h; exact commandOutcome_respond _ s 0
  | beginChan c m p =>
    have hc := exists_channel rfl
    rcases he : (s.chan c).enabled
    case true => rw [exec_begin_enabled hc he] at h; cases h; exact commandOutcome_respond _ s 1
    by_cases hpin : s.params.nPins ≤ p.toNat ∨ pinOwned c p s = true
    · rw [exec_begin_badPin hc he hpin] at h; cases h; exact .refused .configPin (by decide)
    by_cases hlut : (s.chan c).lutEn = true ∧ s.semi m = 0
    · rw [exec_begin_badLut hc he hpin hlut] at h; cases h; exact .refused .configLut (by decide)
    · rw [exec_begin_accepted hc he hpin hlut] at h; cases h; exact .accepted 1 (register_accepted c m p s)
  | endChan c =>
    have hc := exists_channel rfl
    rcases he : (s.chan c).enabled
    case false => rw [exec_end_disabled hc he] at h; cases h; exact commandOutcome_respond _ s 1
    case true => rw [exec_end_enabled hc he] at h; cases h; exact .accepted 1 ((hostWork_unregister c s).accepted _)
  | setDuty c v => rw [exec_setDuty (exists_channel rfl)] at h; cases h; exact .accepted _ ((hostWork_setDuty c _ s).accepted _)
  | setLimit c v => rw [exec_setLimit (exists_channel rfl)] at h; cases h; exact commandOutcome_reconfigure _ rfl rfl
  | setMin c v => rw [exec_setMin (exists_channel rfl)] at h; cases h; exact commandOutcome_reconfigure _ rfl rfl
  | setMax c v => rw [exec_setMax (exists_channel rfl)] at h; cases h; exact commandOutcome_reconfigure _ rfl rfl
  | setOnline c b =>
    cases b with
    | true => rw [exec_setOnline_true (exists_channel rfl)] at h; cases h; exact commandOutcome_reconfigure _ rfl rfl
    | false =>
      rw [exec_setOnline_false (exists_channel rfl)] at h
      have hoffline : HostWork s (s.setChan c (s.chan c).offline) := hostWork_setChan rfl rfl
      cases h; exact .accepted 1 ((hoffline.trans (hostWork_applyOff c _)).accepted _)
  | setLut c b =>
    by_cases hbad : b = true ∧ s.semi (s.chan c).mode = 0
    · obtain ⟨rfl, hsemi⟩ := hbad
      rw [exec_setLut_refused (exists_channel rfl) hsemi] at h
      cases h; exact .refused .configLut (by decide)
    · rw [exec_setLut_accepted (exists_channel rfl) hbad] at h
      cases h; exact commandOutcome_reconfigure _ rfl rfl
  | setSemi u p =>
    by_cases hbad : p = 0 ∧ lutInUse u s = true
    · obtain ⟨rfl, hused⟩ := hbad
      rw [exec_setSemi_refused hused] at h
      cases h; exact .refused .configLut (by decide)
    · rw [exec_setSemi_accepted hbad] at h
      cases h; exact .accepted 1 ((hostWork_storeSemi u p s).accepted _)
  | get c k => rw [exec_get (exists_channel rfl)] at h; cases h; exact commandOutcome_respond _ s _
  | getU u k => cases h; exact commandOutcome_respond _ s _
  | getLut k => cases h; exact commandOutcome_respond _ s _
  | clrErr m =>
    cases h
    exact .accepted 1 ⟨⟨rfl, rfl, fun _ => id, fun _ => ⟨rfl, rfl⟩, .inl rfl⟩, fun hi => absurd rfl (hi m), .inl rfl⟩

/-- The outcome of every command in every state. -/
theorem exec_outcome {i : Instr} {s t : State} (h : exec i s = .next t) : CommandOutcome i s t := by
  by_cases hwf : i.wf s.params.nCh = true
  · exact exec_outcome_of_wf hwf h
  · rcases hi : i.channel with _ | c
    · exact absurd (by simp only [Instr.wf, hi]) hwf
    · rw [exec_missing hi (Nat.not_lt.1 (mt (wf_iff_of_channel hi).2 hwf))] at h
      cases h; exact .refused .illegal (by decide)

/-- The errors a command raises are the low three flags (R251). -/
theorem raise_eq_refusedBy (s : State) {e : ErrorCode} (he : e ≠ .timing) :
    s.raise e = refusedBy 1 s ∨ s.raise e = refusedBy 2 s ∨ s.raise e = refusedBy 4 s := by
  cases e with
  | illegal => exact .inl rfl
  | configPin => exact .inr (.inl rfl)
  | configLut => exact .inr (.inr rfl)
  | timing => exact absurd rfl he

/-- Settles O40: of the two outcomes the response tells which it was. -/
theorem refusalIsPrecise : Obligations.RefusalIsPrecise := by
  unfold Obligations.RefusalIsPrecise
  intro i s t h
  cases exec_outcome h with
  | refused e he => exact ⟨fun _ => raise_eq_refusedBy s he, fun herr => absurd herr.symm Bool.false_ne_true⟩
  | accepted d hacc => exact ⟨fun herr => absurd herr Bool.false_ne_true, fun _ => hacc.errFlags⟩

/-- Settles O41: a refused command changes a flag only, and an accepted one is `Accepted`. -/
theorem commandsNeverRaisePins : Obligations.CommandsNeverRaisePins := by
  unfold Obligations.CommandsNeverRaisePins
  intro i s t h
  cases exec_outcome h with
  | refused e he => exact ⟨fun _ => id, fun _ => ⟨rfl, rfl⟩, .inl rfl⟩
  | accepted d hacc => exact ⟨hacc.pin_le, hacc.modulator, hacc.pol⟩

/-- Settles O6: each command that names a channel tests it first. -/
theorem missingChannelIsIllegal : Obligations.MissingChannelIsIllegal := by
  unfold Obligations.MissingChannelIsIllegal
  intro i c s hi hc
  rw [exec_missing hi hc, raise_illegal]

/-- Settles O18: `SETLIMIT` leaves legal bounds and the clamped limit, under which `SETDUTY` clamps. -/
theorem limitThenDutyClamps : Obligations.LimitThenDutyClamps := by
  unfold Obligations.LimitThenDutyClamps
  intro s c l d hc hb
  have hset := reapply_dutySet (s := s) (c := c) (boundsLegal_limit hb l.toInt) false 1
  obtain ⟨hlimit, hmin, hmax, -⟩ := hset.config
  rw [chan_setChan_same] at hlimit hmin hmax
  have hparams := hset.frame.1
  have hb' := boundsLegal_limit hb l.toInt
  refine ⟨_, _, exec_setLimit hc l, exec_setDuty (by rw [hparams]; exact hc) d, ?_⟩
  have hduty := (setDuty_dutySet (c := c) d.toInt (by rw [BoundsLegal, hlimit, hmin, hmax]; exact hb')).1.duty
  have hclamp := clampDuty_toNat (v := l.toInt) (lo := 0) (hi := 0x10000) (by omega) (by omega) (by omega)
  rw [hlimit, hclamp] at hduty
  exact hduty

end Sys2Proof.Machine

/-! Unit CS over more than one tick: the zero-cross step (R208, R210) case by case, and the debt of one channel over a row of boundaries
(R213). -/

namespace Sys2Proof.Machine

/-! ### The zero-cross step (R208, R210) -/

theorem step_of_zcCS {s : State} {d : BitVec 16} {rest : List Input} (h : s.inputs = .zcCS d :: rest) :
    step s = .next (zcCS d (taken s rest)) := by
  simp only [step, nextInput, h, event, taken]

theorem boundaryJustPassed_iff {s : State} : boundaryJustPassed s = true ↔ CsNearPassed s := by
  have zero_iff : s.ucs.count = 0 ↔ s.ucs.count.toInt = 0 := BitVec.toInt_inj.symm
  rw [boundaryJustPassed, Bool.or_eq_true, decide_eq_true_eq, decide_eq_true_eq, zero_iff, Nat.shiftRight_eq_div_pow, pow_one]

theorem zcCS_ignored {s : State} (h : (¬ ∃ c, InUnit s .cs c) ∨ s.ucs.semi = 0) (d : BitVec 16) : zcCS d s = s := by
  refine if_neg fun ⟨hrun, hsemi⟩ => ?_
  exact h.elim (fun hstop => hstop (run_iff.1 hrun)) hsemi

section
variable {s : State} (hrun : ∃ c, InUnit s .cs c) (hsemi : s.ucs.semi ≠ 0) (d : BitVec 16)
include hrun hsemi

/-- The boundary just passed is the nearest: only the counter is re-phased. -/
theorem zcCS_passed (hpassed : CsNearPassed s) : zcCS d s = s.setCount .cs d.toInt := by
  rw [zcCS, if_pos ⟨run_iff.2 hrun, hsemi⟩]
  exact if_pos (boundaryJustPassed_iff.2 hpassed)

/-- The boundary ahead is the nearest and the zero-cross has been: the boundary is taken now. -/
theorem zcCS_boundary (hahead : ¬ CsNearPassed s) (hd : 0 ≤ d.toInt) : zcCS d s = (boundary s).setCount .cs d.toInt := by
  rw [zcCS, if_pos ⟨run_iff.2 hrun, hsemi⟩]
  exact (if_neg (mt boundaryJustPassed_iff.1 hahead)).trans (if_pos hd)

/-- The boundary ahead is the nearest and the zero-cross is still to come: the counter is set for it. -/
theorem zcCS_early (hahead : ¬ CsNearPassed s) (hd : d.toInt < 0) : zcCS d s = s.setCount .cs (s.ucs.semi.toNat + d.toInt) := by
  rw [zcCS, if_pos ⟨run_iff.2 hrun, hsemi⟩]
  exact (if_neg (mt boundaryJustPassed_iff.1 hahead)).trans (if_neg (Int.not_le.2 hd))

end

/-- The step in its four cases; the boundary, where it is taken, comes before the counter is set. -/
theorem zcCS_cases (d : BitVec 16) (s : State) : zcCS d s = s ∨ zcCS d s = s.setCount .cs d.toInt ∨
    zcCS d s = (boundary s).setCount .cs d.toInt ∨ d.toInt < 0 ∧ zcCS d s = s.setCount .cs (s.ucs.semi.toNat + d.toInt) := by
  by_cases hignored : (¬ ∃ c, InUnit s .cs c) ∨ s.ucs.semi = 0
  · exact .inl (zcCS_ignored hignored d)
  obtain ⟨hrun, hsemi⟩ := not_or.1 hignored
  have hrun := not_not.1 hrun
  by_cases hpassed : CsNearPassed s
  · exact .inr (.inl (zcCS_passed hrun hsemi d hpassed))
  obtain hd | hd := lt_or_ge d.toInt 0
  · exact .inr (.inr (.inr ⟨hd, zcCS_early hrun hsemi d hpassed hd⟩))
  · exact .inr (.inr (.inl (zcCS_boundary hrun hsemi d hpassed hd)))

theorem zcCS_csWork (d : BitVec 16) (s : State) : CsWork s (zcCS d s) := by
  obtain h | h | h | ⟨-, h⟩ := zcCS_cases d s <;> rw [h]
  · exact csWork_ucs s s.ucs
  · exact csWork_ucs s _
  · exact (boundary_csWork s).trans (csWork_ucs _ _)
  · exact csWork_ucs s _

theorem zcCS_errFlags (d : BitVec 16) (s : State) : (zcCS d s).errFlags = s.errFlags := by
  obtain h | h | h | ⟨-, h⟩ := zcCS_cases d s <;> rw [h]
  · rfl
  · exact boundary_errFlags s
  · rfl

/-- The counter holds every value of the 32-bit range (R38, R236). -/
theorem setCount_cs_toInt (s : State) {x : Int} (hlo : -0x80000000 ≤ x) (hhi : x ≤ 0x7FFFFFFF) :
    (s.setCount .cs x).ucs.count.toInt = x := by
  rw [setCount_cs_ucs]
  exact BitVec.toInt_ofInt_eq_self (by decide) (by simpa using hlo) (by simp; omega)

/-- A delay argument fits the counter. -/
theorem setCount_cs_delay (s : State) (d : BitVec 16) : (s.setCount .cs d.toInt).ucs.count.toInt = d.toInt := by
  have hlo := BitVec.le_toInt d
  have hhi := BitVec.toInt_lt (x := d)
  exact setCount_cs_toInt s (by omega) (by omega)

/-- A semi-period less an early delay fits the counter. -/
theorem setCount_cs_early (s : State) (semi d : BitVec 16) :
    (s.setCount .cs (semi.toNat + d.toInt)).ucs.count.toInt = semi.toNat + d.toInt := by
  have hlo := BitVec.le_toInt d
  have hhi := BitVec.toInt_lt (x := d)
  have hsemi := semi.isLt
  exact setCount_cs_toInt s (by omega) (by omega)

/-- Settles O31: on the state with the input taken, each case by its equation. -/
theorem zeroCrossCycleStealing : Obligations.ZeroCrossCycleStealing := by
  unfold Obligations.ZeroCrossCycleStealing
  intro s d rest hin hs
  rw [step_of_zcCS hin]
  refine ⟨fun hignored => ?ignored, fun hrun hsemi => ?_⟩
  case ignored => rw [zcCS_ignored (s := taken s rest) hignored]; rfl
  have hwork := zcCS_csWork d (taken s rest)
  refine ⟨_, rfl, hwork.ports.2, hwork.ports.1, hwork.upc, zcCS_errFlags d _, hwork.outside, fun hpassed => ?passed,
    fun hahead hd => ?boundary, fun hahead hd => ?early⟩
  case passed =>
    rw [zcCS_passed (s := taken s rest) hrun hsemi d hpassed]
    exact ⟨setCount_cs_delay _ d, rfl, rfl, fun _ _ => ⟨rfl, rfl⟩⟩
  case boundary =>
    rw [zcCS_boundary (s := taken s rest) hrun hsemi d hahead hd]
    exact ⟨setCount_cs_delay _ d, boundary_taken (hs.taken rest)⟩
  case early =>
    rw [zcCS_early (s := taken s rest) hrun hsemi d hahead hd]
    exact ⟨setCount_cs_early _ s.ucs.semi d, rfl, rfl, fun _ _ => ⟨rfl, rfl⟩⟩

/-! ### The debt of a channel over many boundaries (R213) -/

/-- A channel that owes a whole half-cycle may conduct at the next boundary: what R213 needs of a state between two boundaries. The
target is `f`. -/
structure DebtBounded (c : ChanIx) (f : Nat) (s : State) : Prop where
  pinsSeparate : PinsSeparate s
  inUnit : InUnit s .cs c
  fire : (s.chan c).fire.toNat = f
  balance : -1 ≤ (s.chan c).bal.toInt ∧ (s.chan c).bal.toInt ≤ 1
  debt : (s.chan c).debt.toNat < 0x20000
  mayConduct : 0x10000 ≤ (s.chan c).debt.toNat → mayConduct (s.chan c).bal.toInt (polarity s) = true

/-- After conducting at polarity `p` a channel may conduct at `-p`; after holding off for its balance too (R207). -/
theorem mayConduct_next {b p : Int} (hp : p = 1 ∨ p = -1) (hb : -1 ≤ b ∧ b ≤ 1) :
    (mayConduct b p = true → -1 ≤ b + p ∧ b + p ≤ 1 ∧ mayConduct (b + p) (-p) = true) ∧
    (mayConduct b p ≠ true → mayConduct b (-p) = true) := by
  obtain rfl | rfl | rfl : b = -1 ∨ b = 0 ∨ b = 1 := by omega
  all_goals obtain rfl | rfl := hp <;> decide

theorem polarity_boundary (s : State) : polarity (boundary s) = -polarity s := by
  rw [polarity, polarity, boundary_ucs]
  cases s.ucs.pol <;> rfl

/-- A boundary's outcome for a channel that is neither off nor full and whose debt does not saturate (R207, R213). -/
theorem boundaryOutcome_partlyOn {p : Int} {a b : Channel} {high : Bool} (h : BoundaryOutcome p a b high)
    (hpos : 0 < a.fire.toNat) (hlt : a.fire.toNat < 0x10000) (hdebt : a.debt.toNat < 0x20000) : b.fire = a.fire ∧
      ((high = true ∧ mayConduct a.bal.toInt p = true ∧
          b.debt.toNat + 0x10000 = a.debt.toNat + a.fire.toNat ∧ b.bal.toInt = a.bal.toInt + p) ∨
        (high = false ∧ (0x10000 ≤ a.debt.toNat + a.fire.toNat → mayConduct a.bal.toInt p ≠ true) ∧
          b.debt.toNat = a.debt.toNat + a.fire.toNat ∧ b.bal = a.bal)) := by
  have hon : a.fire ≠ 0 := by rintro hz; simp [hz] at hpos
  rw [BoundaryOutcome, if_neg (by omega), if_neg hon, min_eq_left (by omega)] at h
  obtain ⟨⟨-, -, -, -, -, hfire, -⟩, -, hdecision⟩ := h
  refine ⟨hfire.symm, ?_⟩
  split at hdecision
  · next hconduct =>
    obtain ⟨howed, hmay⟩ := hconduct
    obtain ⟨hhigh, hdebt', hbal⟩ := hdecision
    exact .inl ⟨hhigh, mayConduct_iff.2 hmay, by omega, hbal⟩
  · next hhold =>
    obtain ⟨hlow, hdebt', hbal⟩ := hdecision
    exact .inr ⟨hlow, fun howed hmay => hhold ⟨howed, mayConduct_iff.1 hmay⟩, hdebt', hbal⟩

/-- The half-cycle after the latest boundary as a number: 1 if the channel conducts in it. -/
def conducted (c : ChanIx) (s : State) : Nat := if s.chanPin c = true then 1 else 0

/-- One boundary keeps the bounds, and what the channel owes grows by the target and falls by each half-cycle conducted. -/
theorem DebtBounded.boundary {c : ChanIx} {f : Nat} {s : State} (h : DebtBounded c f s) (hpos : 0 < f) (hlt : f < 0x10000) :
    DebtBounded c f (boundary s) ∧
    ((boundary s).chan c).debt.toNat + 0x10000 * conducted c (boundary s) = (s.chan c).debt.toNat + f := by
  obtain ⟨hs, hc, rfl, hbal, hdebt, howing⟩ := h
  have hreg := (boundary_csWork s).registration
  have hs' := hreg.pinsSeparate hs
  have hc' := (hreg.inUnit .cs c).2 hc
  obtain ⟨-, -, houtcome⟩ := boundary_taken hs
  obtain ⟨hfire, hdecision⟩ := boundaryOutcome_partlyOn (houtcome c hc) hpos hlt hdebt
  rw [← polarity] at hdecision
  obtain ⟨hconducting, hholding⟩ := mayConduct_next (polarity_eq s) hbal
  obtain ⟨hpin, hmay, hdebt', hbal'⟩ | ⟨hpin, hnot, hdebt', hbal'⟩ := hdecision
  · obtain ⟨hlo, hhi, hnext⟩ := hconducting hmay
    refine ⟨⟨hs', hc', by rw [hfire], by omega, by omega, fun _ => ?_⟩, by rw [conducted, if_pos hpin]; omega⟩
    rw [hbal', polarity_boundary]; exact hnext
  · have hbelow : (s.chan c).debt.toNat < 0x10000 := by
      by_contra howes
      exact hnot (by omega) (howing (by omega))
    refine ⟨⟨hs', hc', by rw [hfire], by rw [hbal']; exact hbal, by omega, fun howes => ?_⟩,
      by rw [conducted, if_neg (by simp [hpin])]; omega⟩
    rw [hbal', polarity_boundary]; exact hholding (hnot (by omega))

/-- The boundaries among the first `n` after which channel `c` conducts. -/
def conductedCount (c : ChanIx) (s : State) (n : Nat) : Nat :=
  ((List.range n).filter fun j => (boundary^[j + 1] s).chanPin c).length

theorem conductedCount_succ (c : ChanIx) (s : State) (n : Nat) :
    conductedCount c s (n + 1) = conductedCount c s n + conducted c (boundary^[n + 1] s) := by
  rw [conductedCount, List.range_succ, List.filter_append, List.length_append, List.filter_cons, List.filter_nil, conducted]
  split <;> rfl

/-- Over `n` boundaries the bounds stay and the balance of `DebtBounded.boundary` adds up. -/
theorem DebtBounded.iterate {c : ChanIx} {f : Nat} {s : State} (h : DebtBounded c f s) (hpos : 0 < f) (hlt : f < 0x10000) (n : Nat) :
    DebtBounded c f (Machine.boundary^[n] s) ∧
    ((Machine.boundary^[n] s).chan c).debt.toNat + 0x10000 * conductedCount c s n = (s.chan c).debt.toNat + n * f := by
  induction n with
  | zero => exact ⟨h, by simp [conductedCount]⟩
  | succ n ih =>
    obtain ⟨hbounded, hsum⟩ := ih
    obtain ⟨hbounded', hstep⟩ := hbounded.boundary hpos hlt
    rw [conductedCount_succ, Function.iterate_succ_apply', Nat.add_one_mul n f]
    exact ⟨hbounded', by omega⟩

/-- Settles O45: a debt below 1.0 is bounded, whatever the balance, and `DebtBounded.iterate` accounts for it. -/
theorem debtTracksTarget : Obligations.DebtTracksTarget := by
  unfold Obligations.DebtTracksTarget
  intro s c n hs hc hpos hlt hdebt hlo hhi
  have hstart : DebtBounded c (s.chan c).fire.toNat s := ⟨hs, hc, rfl, ⟨hlo, hhi⟩, by omega, fun howes => by omega⟩
  obtain ⟨hbounded, hsum⟩ := hstart.iterate hpos hlt n
  exact ⟨hbounded.debt, hsum⟩

end Sys2Proof.Machine

/-! Every step of every state (R15, R256): what an event never touches, whatever the pins are, and from it and from `exec_outcome` what
no step changes. -/

namespace Sys2Proof.Machine

/-! ### What no event touches (R260) -/

theorem sameConfiguration_trans {a b d : Channel} (h : SameConfiguration a b) (h' : SameConfiguration b d) :
    SameConfiguration a d := by
  simp_all only [SameConfiguration, and_self]

/-- The parameters, the table, the channels' configuration and the semi-periods are as before. -/
structure EventWork (s t : State) : Prop where
  params : t.params = s.params
  lut : t.lut = s.lut
  config : ∀ c, SameConfiguration (s.chan c) (t.chan c)
  semi : ∀ u, t.semi u = s.semi u

theorem EventWork.trans {s t r : State} (h : EventWork s t) (h' : EventWork t r) : EventWork s r where
  params := h'.params.trans h.params
  lut := h'.lut.trans h.lut
  config c := sameConfiguration_trans (h.config c) (h'.config c)
  semi u := (h'.semi u).trans (h.semi u)

/-- An event may write the unit registers but for the semi-periods, and nothing that follows here. -/
theorem eventWork_of_chans {s t : State} (hparams : t.params = s.params) (hlut : t.lut = s.lut) (hchans : t.chans = s.chans)
    (hsemi : ∀ u, t.semi u = s.semi u) : EventWork s t :=
  ⟨hparams, hlut, fun c => by simp only [chan_congr hchans c, SameConfiguration, and_self], hsemi⟩

theorem eventWork_refl (s : State) : EventWork s s := eventWork_of_chans rfl rfl rfl fun _ => rfl

theorem eventWork_setCount (s : State) (u : UnitId) (x : Int) : EventWork s (s.setCount u x) :=
  eventWork_of_chans (by simp) (by simp) (by simp) (by simp)

theorem eventWork_rearm (s : State) : EventWork s (rearm s) :=
  eventWork_of_chans (by simp) (by simp) (by simp) (semi_congr (by simp) (by simp))

theorem WalkFrame.eventWork {s t : State} (h : WalkFrame s t) : EventWork s t := ⟨h.params, h.lut, h.config, h.semi⟩

theorem boundary_eventWork (s : State) : EventWork s (boundary s) := by
  rw [boundary_eq]
  exact (decided_walkFrame s).eventWork.trans (eventWork_of_chans rfl rfl rfl fun u => by cases u <;> rfl)

theorem pcTick_eventWork (s : State) : EventWork s (pcTick s) := by
  have hcounted : EventWork s (counted s) := eventWork_setCount s .pc _
  obtain h | h | h := pcTick_cases s <;> rw [h]
  · exact eventWork_refl s
  · exact hcounted
  · exact (hcounted.trans (walkFrame_forChans scansDue_alarmFire.written _ _).eventWork).trans (eventWork_rearm _)

/-- The CSU part of `TICK` does nothing, zeroes the counter, counts below the semi-period, or takes a boundary. -/
theorem csTick_cases (s : State) : csTick s = s ∨ csTick s = s.setCount .cs 0 ∨
    s.ucs.count.toInt + 1 < s.ucs.semi.toNat ∧ csTick s = s.setCount .cs (s.ucs.count.toInt + 1) ∨
    csTick s = (boundary (s.setCount .cs (s.ucs.count.toInt + 1))).setCount .cs 0 := by
  by_cases hrun : ∃ c, InUnit s .cs c
  case neg => exact .inl (csTick_stopped hrun)
  by_cases hsemi : s.ucs.semi = 0
  · exact .inr (.inl (csTick_idle hrun hsemi))
  obtain hbelow | hreached := lt_or_ge (s.ucs.count.toInt + 1) s.ucs.semi.toNat
  · exact .inr (.inr (.inl ⟨hbelow, csTick_counting hrun hsemi hbelow⟩))
  · exact .inr (.inr (.inr (csTick_boundary hrun hsemi hreached)))

theorem csTick_eventWork (s : State) : EventWork s (csTick s) := by
  obtain h | h | ⟨-, h⟩ | h := csTick_cases s <;> rw [h]
  · exact eventWork_refl s
  · exact eventWork_setCount s .cs _
  · exact eventWork_setCount s .cs _
  · exact ((eventWork_setCount s .cs _).trans (boundary_eventWork _)).trans (eventWork_setCount _ .cs _)

theorem tick_eventWork (s : State) : EventWork s (tick s) := (pcTick_eventWork s).trans (csTick_eventWork _)

theorem zcPC_eventWork (d : BitVec 16) (s : State) : EventWork s (zcPC d s) := by
  by_cases hrun : ∃ c, InUnit s .pc c
  · rw [zcPC_running hrun]
    have hwalked := (eventWork_setCount s .pc d.toInt).trans (walked_walkFrame d s).eventWork
    exact (hwalked.trans (walkFrame_forChans scansDue_zcLate.written _ _).eventWork).trans (eventWork_rearm _)
  · rw [zcPC_stopped hrun]
    exact eventWork_refl s

theorem zcCS_eventWork (d : BitVec 16) (s : State) : EventWork s (zcCS d s) := by
  obtain h | h | h | ⟨-, h⟩ := zcCS_cases d s <;> rw [h]
  · exact eventWork_refl s
  · exact eventWork_setCount s .cs _
  · exact (boundary_eventWork s).trans (eventWork_setCount _ .cs _)
  · exact eventWork_setCount s .cs _

/-! ### What a step is (R15, R80, R280) -/

/-- The step that takes an input from state `r` leaves this state. -/
inductive InputTaken (r : State) : Input → State → Prop where
  | tick : InputTaken r .tick (tick r.quiet)
  | zcPC (d : BitVec 16) : InputTaken r (.zcPC d) (zcPC d r.quiet)
  | zcCS (d : BitVec 16) : InputTaken r (.zcCS d) (zcCS d r.quiet)
  | cmd {w : Word} {t : State} (h : command w r = .next t) : InputTaken r (.cmd w) t
  | rst : InputTaken r .rst (resetState r.quiet)

theorem step_inputTaken {s t : State} (h : step s = .next t) : InputTaken (nextInput s).2 (nextInput s).1 t := by
  unfold step at h
  rcases hi : nextInput s with ⟨i, r⟩
  simp only [hi] at h
  cases i with
  | tick => cases h; exact .tick
  | zcPC d => cases h; exact .zcPC d
  | zcCS d => cases h; exact .zcCS d
  | cmd w => exact .cmd h
  | rst => cases h; exact .rst

/-- Taking the next input changes nothing but the list of inputs. -/
theorem nextInput_eq (s : State) : ∃ i rest, nextInput s = (i, { s with inputs := rest }) := by
  unfold nextInput
  split
  · exact ⟨.tick, s.inputs, rfl⟩
  · exact ⟨_, _, rfl⟩

theorem nextInput_cons {s : State} {i : Input} {rest : List Input} (h : s.inputs = i :: rest) :
    nextInput s = (i, { s with inputs := rest }) := by
  simp only [nextInput, h]

/-- A command step is `raise` of an error of commands, or accepted, with a response. -/
theorem command_next {w : Word} {s t : State} (h : command w s = .next t) : ∃ i, CommandOutcome i s t := by
  unfold command at h
  split at h
  · exact ⟨_, exec_outcome h⟩
  · cases h; exact ⟨.nop, .refused .illegal (by decide)⟩

theorem exec_next (i : Instr) (s : State) : ∃ t, exec i s = .next t := by
  cases i <;> exact ⟨_, rfl⟩

theorem command_goes_on (w : Word) (s : State) : ∃ t, command w s = .next t := by
  unfold command
  split
  · exact exec_next _ s
  · exact ⟨_, rfl⟩

/-- Settles O38: an event answers a next state, and so does every command. -/
theorem everyStepGoesOn : Obligations.EveryStepGoesOn := by
  unfold Obligations.EveryStepGoesOn
  intro s
  unfold step
  split
  case h_4 => exact command_goes_on _ _
  all_goals exact ⟨_, rfl⟩

/-- Settles O4: the command step of a legal word is its command. -/
theorem stepRunsDecodedCommand : Obligations.StepRunsDecodedCommand := by
  unfold Obligations.StepRunsDecodedCommand
  intro s w rest i hin hdecode
  rw [step_of_cmd hin]
  simp only [command, fetch, hdecode]

/-- Settles O35: with nothing listed the next input is a tick, and nothing is taken from the list. -/
theorem silentEnvironmentTicks : Obligations.SilentEnvironmentTicks := by
  unfold Obligations.SilentEnvironmentTicks
  intro s hin
  rw [step_of_tick (s := { s with inputs := [.tick] }) rfl]
  simp only [step, nextInput, hin, event, taken]
  rw [← hin]

/-- Settles O32: the reset clock leaves the reset state with the same parameters and table (`resetOf_chan`). -/
theorem resetClock : Obligations.ResetClock := by
  unfold Obligations.ResetClock
  intro s rest hin
  have hstep : step s = .next (resetState (taken s rest)) := by simp only [step, nextInput, hin, event, taken]
  exact ⟨_, hstep, rfl, rfl, rfl, rfl, rfl, rfl, rfl, rfl, resetOf_chan s.params s.lut⟩

/-- Settles O37: `State.reset` is one of the reset states of which `StateInvariantsKept` speaks. -/
theorem resetSatisfiesInvariants : Obligations.ResetSatisfiesInvariants := by
  unfold Obligations.ResetSatisfiesInvariants
  exact stateInvariantsKept.1 Config.params Config.lut

/-! ### What no step changes -/

/-- Settles O42: each of the three events is `EventWork`. -/
theorem eventsKeepConfiguration : Obligations.EventsKeepConfiguration := by
  unfold Obligations.EventsKeepConfiguration
  intro s t i rest hin hrst hcmd h
  have htaken := step_inputTaken h
  rw [nextInput_cons hin] at htaken
  have hwork : EventWork (taken s rest) t := by
    cases htaken with
    | tick => exact tick_eventWork _
    | zcPC d => exact zcPC_eventWork d _
    | zcCS d => exact zcCS_eventWork d _
    | cmd _ => exact absurd rfl (hcmd _)
    | rst => exact absurd rfl hrst
  exact ⟨hwork.config, hwork.semi⟩

/-- Settles O43: an event is `EventWork`, an accepted command `Accepted`, a refused one sets a flag, and reset keeps both. -/
theorem instanceNeverChanges : Obligations.InstanceNeverChanges := by
  unfold Obligations.InstanceNeverChanges
  intro s t h
  obtain ⟨i, rest, hnext⟩ := nextInput_eq s
  have htaken := step_inputTaken h
  rw [hnext] at htaken
  cases htaken with
  | tick => have hwork := tick_eventWork (taken s rest); exact ⟨hwork.lut, hwork.params⟩
  | zcPC d => have hwork := zcPC_eventWork d (taken s rest); exact ⟨hwork.lut, hwork.params⟩
  | zcCS d => have hwork := zcCS_eventWork d (taken s rest); exact ⟨hwork.lut, hwork.params⟩
  | cmd hcommand =>
    obtain ⟨i, houtcome⟩ := command_next hcommand
    cases houtcome with
    | refused e _ => exact ⟨rfl, rfl⟩
    | accepted d hacc => exact ⟨hacc.lut, hacc.params⟩
  | rst => exact ⟨rfl, rfl⟩

/-! ### The range of unit CS's counter (R236) -/

/-- The range in which the additions of R204 and R208 are exact. -/
def CountInRange (n : BitVec 32) : Prop := -32768 ≤ n.toInt ∧ n.toInt ≤ 0xFFFF

theorem countInRange_zero : CountInRange 0 := ⟨by decide, by decide⟩

theorem csTick_countInRange {s : State} (h : CountInRange s.ucs.count) : CountInRange (csTick s).ucs.count := by
  obtain ⟨hlo, hhi⟩ := h
  obtain h | h | ⟨hbelow, h⟩ | h := csTick_cases s <;> rw [h]
  · exact ⟨hlo, hhi⟩
  · exact countInRange_zero
  · have hsemi := s.ucs.semi.isLt
    rw [CountInRange, setCount_cs_next hbelow]
    omega
  · exact countInRange_zero

theorem tick_countInRange {s : State} (h : CountInRange s.ucs.count) : CountInRange (tick s).ucs.count :=
  csTick_countInRange (by rwa [pcTick_ucs])

theorem zcPC_count_cs (d : BitVec 16) (s : State) : (zcPC d s).ucs.count = s.ucs.count := by
  by_cases hrun : ∃ c, InUnit s .pc c
  · rw [zcPC_ucs hrun]
  · rw [zcPC_stopped hrun]

theorem zcCS_countInRange {s : State} (h : CountInRange s.ucs.count) (d : BitVec 16) : CountInRange (zcCS d s).ucs.count := by
  have hlo := BitVec.le_toInt d
  have hhi := BitVec.toInt_lt (x := d)
  obtain h' | h' | h' | ⟨hd, h'⟩ := zcCS_cases d s <;> rw [h']
  · exact h
  · rw [CountInRange, setCount_cs_delay]; omega
  · rw [CountInRange, setCount_cs_delay]; omega
  · have hsemi := s.ucs.semi.isLt
    rw [CountInRange, setCount_cs_early]; omega

/-- Settles O44: unit PC's events leave the counter, unit CS's keep its range, and a command leaves or zeroes it. -/
theorem csCounterStaysInRange : Obligations.CsCounterStaysInRange := by
  unfold Obligations.CsCounterStaysInRange
  intro s t hlo hhi h
  have hrange : CountInRange s.ucs.count := ⟨hlo, hhi⟩
  obtain ⟨i, rest, hnext⟩ := nextInput_eq s
  have htaken := step_inputTaken h
  rw [hnext] at htaken
  cases htaken with
  | tick => exact tick_countInRange (s := taken s rest) hrange
  | zcPC d => rw [zcPC_count_cs]; exact hrange
  | zcCS d => exact zcCS_countInRange (s := taken s rest) hrange d
  | cmd hcommand =>
    obtain ⟨i, houtcome⟩ := command_next hcommand
    cases houtcome with
    | refused e _ => exact hrange
    | accepted d hacc =>
      obtain hkept | hzero := hacc.count
      · rw [respond_ucs, hkept]; exact hrange
      · rw [respond_ucs, hzero]; exact countInRange_zero
  | rst => exact countInRange_zero

/-! ### The alarm (R173, R175) -/

/-- Settles O47: a pin of unit PC rises for a delay that has elapsed, and before the tick every delay lay ahead of the counter. -/
theorem alarmFiresOnTime : Obligations.AlarmFiresOnTime := by
  unfold Obligations.AlarmFiresOnTime
  intro s t rest c hinv hin h hc hlow hhigh
  obtain ⟨r, hr, -, -, -, hrunning⟩ := tickPhaseControl s rest hin hinv.pinsSeparate hinv.alarm
  obtain rfl : r = t := by rw [hr] at h; cases h; rfl
  obtain ⟨hcount, -, -, -, -, hkept⟩ := hrunning ⟨c, hc⟩
  have hdue : ∃ x, Pending s c x ∧ (x.toNat : Int) ≤ r.upc.count.toInt := by
    by_contra hnot
    obtain ⟨hpin, -⟩ := hkept c hc hnot
    rw [hpin, hlow] at hhigh
    exact Bool.false_ne_true hhigh
  obtain ⟨x, hpending, hreached⟩ := hdue
  have hahead := (inv_iff_wholeInv.1 hinv).ahead c x hpending
  exact ⟨x, hpending.2, by omega⟩

end Sys2Proof.Machine

/-! Runs of the machine: the invariants along a run (R281), unit CS over ticks and over the steps of one clock (R204, R210), and the
steps of a whole clock (R258). -/

namespace Sys2Proof.Machine

/-! ### Running step by step -/

theorem run_succ_of_step {s t : State} (h : step s = .next t) (n : Nat) :
    Host.Core.run Sys2Proof.core (n + 1) s = Host.Core.run Sys2Proof.core n t := by
  have hcore : Sys2Proof.core.step s = .next t := h
  simp only [Host.Core.run, hcore]

/-- The same with the step taken last. -/
theorem run_succ_last {s r t : State} {n : Nat} (hr : Host.Core.run Sys2Proof.core n s = .next r) (h : step r = .next t) :
    Host.Core.run Sys2Proof.core (n + 1) s = .next t := by
  induction n generalizing s with
  | zero => cases hr; exact run_succ_of_step h 0
  | succ n ih =>
    obtain ⟨s', hs'⟩ := everyStepGoesOn s
    rw [run_succ_of_step hs'] at hr ⊢
    exact ih hr

theorem run_inv {n : Nat} {s t : State} (hs : WholeInv s) (h : Host.Core.run Sys2Proof.core n s = .next t) : WholeInv t := by
  induction n generalizing s with
  | zero => cases h; exact hs
  | succ n ih =>
    obtain ⟨s', hs'⟩ := everyStepGoesOn s
    rw [run_succ_of_step hs'] at h
    exact ih (step_inv hs hs') h

/-- The safe state of the block (R281) is part of the invariants: an offline channel has `FIRE = 0`. -/
theorem InvBut.safePins {s : State} (h : WholeInv s) : s.SafePins := by
  intro c hc he hoff
  have hsafe := h.safe.channels c hc
  exact hsafe.zero_is_low he (hoff.elim hsafe.offline_zero id)

/-- Settles O39: the invariants hold at reset whatever is listed, and along every run. -/
theorem offChannelsStayLow : Obligations.OffChannelsStayLow := by
  unfold Obligations.OffChannelsStayLow
  intro p l inputs n t h
  exact (run_inv ((resetOf_inv p l).takeInput inputs) h).safePins

/-! ### A tick of unit CS (R204, R207) -/

theorem tick_sameRegistration (s : State) : SameRegistration s (tick s) :=
  (pcTick_sameRegistration s).trans (csTick_csWork _).registration

theorem tick_samePorts (s : State) : SamePorts s (tick s) := by
  obtain ⟨hrsp, hinputs⟩ := pcTick_samePorts s
  obtain ⟨hrsp', hinputs'⟩ := (csTick_csWork (pcTick s)).ports
  exact ⟨hrsp'.trans hrsp, hinputs'.trans hinputs⟩

theorem pcTick_csChannelsSame {s : State} (hs : PinsSeparate s) : CsChannelsSame s (pcTick s) :=
  fun _ hc => (pcTick_outsideUnit s).otherUnit_channel (by decide) hs hc

theorem CsChannelsSame.trans {s t r : State} (h : CsChannelsSame s t) (h' : CsChannelsSame t r) (hreg : SameRegistration s t) :
    CsChannelsSame s r := fun c hc =>
  have ⟨hchan, hpin⟩ := h c hc
  have ⟨hchan', hpin'⟩ := h' c ((hreg.inUnit .cs c).2 hc)
  ⟨hchan'.trans hchan, hpin'.trans hpin⟩

section
variable {s : State} (hs : PinsSeparate s) (hrun : ∃ c, InUnit s .cs c) (hsemi : s.ucs.semi ≠ 0)
include hs hrun hsemi

/-- Below the semi-period a tick only counts. -/
theorem tick_counting (hbelow : s.ucs.count.toInt + 1 < s.ucs.semi.toNat) :
    (tick s).ucs.count.toInt = s.ucs.count.toInt + 1 ∧ (tick s).ucs.semi = s.ucs.semi ∧ (tick s).ucs.pol = s.ucs.pol ∧
    CsChannelsSame s (tick s) := by
  have hsame := pcTick_csChannelsSame hs
  have hucs := pcTick_ucs s
  have hrun' : ∃ c, InUnit (pcTick s) .cs c := hrun.imp fun c => ((pcTick_sameRegistration s).inUnit .cs c).2
  rw [tick]
  generalize pcTick s = t at hsame hucs hrun'
  rw [← hucs] at hsemi hbelow ⊢
  rw [csTick_counting hrun' hsemi hbelow]
  exact ⟨setCount_cs_next hbelow, rfl, rfl, hsame⟩

/-- A tick that reaches the semi-period takes the boundary and zeroes the counter. -/
theorem tick_boundary (hreached : (s.ucs.semi.toNat : Int) ≤ s.ucs.count.toInt + 1) :
    (tick s).ucs.count = 0 ∧ BoundaryTaken s (tick s) := by
  have hsame := pcTick_csChannelsSame hs
  have hucs := pcTick_ucs s
  have hreg := pcTick_sameRegistration s
  rw [tick]
  generalize pcTick s = t at hsame hucs hreg
  rw [← hucs] at hsemi hreached
  obtain ⟨hcount, htaken⟩ := csTick_boundary_taken (hreg.pinsSeparate hs) (hrun.imp fun c => (hreg.inUnit .cs c).2) hsemi hreached
  exact ⟨hcount, htaken.after_same hreg hsame (by rw [hucs]) (by rw [hucs])⟩

end

/-! ### The free-running boundary clock (R204) -/

theorem taken_ucs (s : State) (rest : List Input) : (taken s rest).ucs = s.ucs := rfl

theorem step_of_silent {s : State} (h : s.inputs = []) : step s = .next (tick (taken s [])) :=
  (silentEnvironmentTicks s h).trans (step_of_tick rfl)

/-- `t` is `s` after `n` ticks without a boundary, still with nothing presented. -/
structure FreeRunning (s : State) (n : Nat) (t : State) : Prop where
  inputs : t.inputs = []
  registration : SameRegistration s t
  count : t.ucs.count.toInt = n
  semi : t.ucs.semi = s.ucs.semi
  pol : t.ucs.pol = s.ucs.pol
  channels : CsChannelsSame s t

section
variable {s : State} (hs : PinsSeparate s) (hrun : ∃ c, InUnit s .cs c) (hsemi : s.ucs.semi ≠ 0)
include hs hrun hsemi

theorem FreeRunning.tick {n : Nat} {t : State} (h : FreeRunning s n t) (hbelow : n + 1 < s.ucs.semi.toNat) :
    FreeRunning s (n + 1) (tick (taken t [])) := by
  obtain ⟨-, hreg, hcount, htsemi, htpol, hchannels⟩ := h
  have hreg' := hreg.trans (taken_sameRegistration t [])
  obtain ⟨hcount', hsemi', hpol', hchannels'⟩ := tick_counting (s := taken t []) (hreg'.pinsSeparate hs)
    (hrun.imp fun c => (hreg'.inUnit .cs c).2) (htsemi ▸ hsemi) (by rw [taken_ucs, htsemi, hcount]; omega)
  refine ⟨(tick_samePorts _).2, hreg'.trans (tick_sameRegistration _), hcount'.trans ?_, hsemi'.trans htsemi, hpol'.trans htpol,
    CsChannelsSame.trans (t := taken t []) hchannels hchannels' hreg'⟩
  rw [taken_ucs, hcount]; rfl

/-- The tick that reaches the semi-period takes the boundary. -/
theorem FreeRunning.boundary {n : Nat} {t : State} (h : FreeRunning s n t) (hreached : s.ucs.semi.toNat ≤ n + 1) :
    (Machine.tick (taken t [])).ucs.count = 0 ∧ BoundaryTaken s (Machine.tick (taken t [])) := by
  obtain ⟨-, hreg, hcount, htsemi, htpol, hchannels⟩ := h
  have hreg' := hreg.trans (taken_sameRegistration t [])
  obtain ⟨hcount', htaken⟩ := tick_boundary (s := taken t []) (hreg'.pinsSeparate hs) (hrun.imp fun c => (hreg'.inUnit .cs c).2)
    (htsemi ▸ hsemi) (by rw [taken_ucs, htsemi, hcount]; omega)
  exact ⟨hcount', htaken.after_same (t := taken t []) hreg' hchannels htsemi htpol⟩

/-- From a zeroed counter unit CS counts up to the semi-period. -/
theorem run_freeRunning (hinputs : s.inputs = []) (hzero : s.ucs.count = 0) {n : Nat} (hn : n < s.ucs.semi.toNat) :
    ∃ t : State, Host.Core.run Sys2Proof.core n s = .next t ∧ FreeRunning s n t := by
  induction n with
  | zero => exact ⟨s, rfl, hinputs, ⟨rfl, fun _ => ⟨rfl, rfl, rfl⟩⟩, by rw [hzero]; rfl, rfl, rfl, fun _ _ => ⟨rfl, rfl⟩⟩
  | succ n ih =>
    obtain ⟨t, ht, hfree⟩ := ih (by omega)
    exact ⟨_, run_succ_last ht (step_of_silent hfree.inputs), hfree.tick hs hrun hsemi hn⟩

end

/-- Settles O46: unit CS runs freely up to the last tick before the semi-period, and the next tick takes the boundary. -/
theorem freeRunningBoundary : Obligations.FreeRunningBoundary := by
  unfold Obligations.FreeRunningBoundary
  intro s hin hs hrun hsemi hzero
  refine ⟨fun n hn => ?_, ?_⟩
  · obtain ⟨t, ht, hfree⟩ := run_freeRunning hs hrun hsemi hin hzero hn
    exact ⟨t, ht, hfree.count, hfree.pol, hfree.channels⟩
  · have hne : s.ucs.semi.toNat ≠ 0 := fun h => hsemi (BitVec.eq_of_toNat_eq h)
    obtain ⟨n, hn⟩ := Nat.exists_eq_add_one_of_ne_zero hne
    obtain ⟨t, ht, hfree⟩ := run_freeRunning hs hrun hsemi hin hzero (n := n) (by omega)
    rw [hn]
    exact ⟨_, run_succ_last ht (step_of_silent hfree.inputs), hfree.boundary hs hrun hsemi hn.le⟩

/-! ### One boundary per clock (R210) -/

/-- After a tick that took the boundary the counter is 0, so that the zero-cross only re-phases it. -/
theorem zcCS_after_boundary {s t : State} (d : BitVec 16) (hrun : ∃ c, InUnit t .cs c) (hsemi : t.ucs.semi ≠ 0)
    (hzero : t.ucs.count = 0) (htaken : BoundaryTaken s t) :
    (zcCS d t).ucs.count.toInt = d.toInt ∧ BoundaryTaken s (zcCS d t) := by
  rw [zcCS_passed hrun hsemi d (.inr (by rw [hzero]; rfl))]
  exact ⟨setCount_cs_delay t d, htaken⟩

/-- After a tick that took none the zero-cross takes at most one boundary. -/
theorem zcCS_after_counting {s t : State} (d : BitVec 16) (hs : PinsSeparate s) (hreg : SameRegistration s t)
    (hsemi : t.ucs.semi = s.ucs.semi) (hpol : t.ucs.pol = s.ucs.pol) (hsame : CsChannelsSame s t) :
    (zcCS d t).ucs.semi = s.ucs.semi ∧ (zcCS d t).ucs.pol = s.ucs.pol ∧ CsChannelsSame s (zcCS d t) ∨
    BoundaryTaken s (zcCS d t) := by
  obtain h | h | h | ⟨-, h⟩ := zcCS_cases d t <;> rw [h]
  · exact .inl ⟨hsemi, hpol, hsame⟩
  · exact .inl ⟨hsemi, hpol, hsame⟩
  · have htaken : BoundaryTaken t ((boundary t).setCount .cs d.toInt) := boundary_taken (hreg.pinsSeparate hs)
    exact .inr (htaken.after_same hreg hsame hsemi hpol)
  · exact .inl ⟨hsemi, hpol, hsame⟩

/-- Settles O48: by whether the tick takes the boundary. -/
theorem oneBoundaryPerClock : Obligations.OneBoundaryPerClock := by
  unfold Obligations.OneBoundaryPerClock
  intro s d rest hin hs hrun hsemi
  have hs' := hs.taken (.zcCS d :: rest)
  have hports := tick_samePorts (taken s (.zcCS d :: rest))
  have hreg := ((taken_sameRegistration s (.zcCS d :: rest)).trans (tick_sameRegistration _)).trans (taken_sameRegistration _ rest)
  have hwork := zcCS_csWork d (taken (tick (taken s (.zcCS d :: rest))) rest)
  have hstep := run_succ_last (n := 1) (run_succ_of_step (step_of_tick hin) 0) (step_of_zcCS hports.2)
  refine ⟨_, hstep, hwork.ports.2, hwork.ports.1, fun hreached => ?boundary, fun hbelow => ?counting⟩
  case boundary =>
    obtain ⟨hzero, htaken⟩ := tick_boundary hs' hrun hsemi hreached
    exact zcCS_after_boundary d (hrun.imp fun c => (hreg.inUnit .cs c).2) (htaken.1 ▸ hsemi) hzero htaken
  case counting =>
    obtain ⟨-, hsemi', hpol', hsame⟩ := tick_counting hs' hrun hsemi hbelow
    exact zcCS_after_counting d hs hreg hsemi' hpol' hsame

end Sys2Proof.Machine

/-! The steps of one clock (R258). No event reads or writes the steps still presented, so that running the steps a clock lists takes
each on what the one before left, whatever is listed after it (log 1). -/

namespace Sys2Proof.Machine

/-! ### The steps still presented are seen by no event -/

/-- `s` with these steps still presented. -/
def State.withInputs (s : State) (l : List Input) : State := { s with inputs := l }

section
variable (s : State) (l : List Input)
@[simp] theorem withInputs_params : (s.withInputs l).params = s.params := rfl
@[simp] theorem withInputs_ucs : (s.withInputs l).ucs = s.ucs := rfl
@[simp] theorem withInputs_chan (c : ChanIx) : (s.withInputs l).chan c = s.chan c := rfl
@[simp] theorem withInputs_chansOf (u : UnitId) : (s.withInputs l).chansOf u = s.chansOf u := rfl
@[simp] theorem withInputs_quiet : (s.withInputs l).quiet = s.quiet.withInputs l := rfl
@[simp] theorem withInputs_setChan (c : ChanIx) (x : Channel) : (s.withInputs l).setChan c x = (s.setChan c x).withInputs l := rfl
@[simp] theorem withInputs_setPend (c : ChanIx) (x : Option Ticks) : (s.withInputs l).setPend c x = (s.setPend c x).withInputs l := rfl
@[simp] theorem withInputs_setFlag (e : ErrorCode) : (s.withInputs l).setFlag e = (s.setFlag e).withInputs l := rfl

@[simp] theorem withInputs_setCount (u : UnitId) (x : Int) : (s.withInputs l).setCount u x = (s.setCount u x).withInputs l := by
  cases u <;> rfl

@[simp] theorem withInputs_driveChan (c : ChanIx) (v : Bool) : (s.withInputs l).driveChan c v = (s.driveChan c v).withInputs l := by
  by_cases hp : (s.chan c).pinsel.toNat < s.params.nPins
  · simp only [State.driveChan, State.setPin, withInputs_chan, withInputs_params, hp, if_true]; rfl
  · simp only [State.driveChan, State.setPin, withInputs_chan, withInputs_params, hp, if_false]

end

/-- An operation to which the steps still presented make no difference. -/
def IgnoresInputs (f : State → State) : Prop := ∀ s l, f (s.withInputs l) = (f s).withInputs l

theorem minPend_withInputs (s : State) (l : List Input) (cs : List ChanIx) : minPend (s.withInputs l) cs = minPend s cs := by
  induction cs with
  | nil => rfl
  | cons c cs ih => simp only [minPend, withInputs_chan, ih]

theorem ignoresInputs_rearm : IgnoresInputs rearm := by
  intro s l
  unfold rearm
  rw [withInputs_chansOf, minPend_withInputs]
  cases minPend s (s.chansOf .pc) <;> rfl

theorem ignoresInputs_forChans {body : ChanIx → State → State} (h : ∀ c, IgnoresInputs (body c)) (cs : List ChanIx) :
    IgnoresInputs (forChans cs body) := by
  intro s l
  induction cs generalizing s with
  | nil => rfl
  | cons c cs ih => exact (congrArg (forChans cs body) (h c s l)).trans (ih (body c s))

/-! ### The events of unit PC -/

theorem ignoresInputs_alarmFire (c : ChanIx) : IgnoresInputs (alarmFire c) := by
  intro s l
  by_cases hdue : IsDue s.upc.count.toInt (s.chan c)
  · rw [alarmFire_due hdue, alarmFire_due (s := s.withInputs l) hdue, withInputs_driveChan, withInputs_setPend]
  · rw [alarmFire_notDue hdue, alarmFire_notDue (s := s.withInputs l) hdue]

theorem ignoresInputs_alarmPc : IgnoresInputs alarmPc := by
  intro s l
  rw [alarmPc, alarmPc, withInputs_chansOf, ignoresInputs_forChans ignoresInputs_alarmFire, ignoresInputs_rearm]

theorem ignoresInputs_pcTick : IgnoresInputs pcTick := by
  intro s l
  have hcounted : counted (s.withInputs l) = (counted s).withInputs l := withInputs_setCount s l .pc _
  by_cases hrun : ∃ c, InUnit s .pc c
  case neg => rw [pcTick_stopped hrun, pcTick_stopped (s := s.withInputs l) hrun]
  by_cases halarm : s.upc.armed = true ∧ (s.upc.alarm.toNat : Int) ≤ (counted s).upc.count.toInt
  · rw [(pcTick_running hrun).trans (if_pos halarm), (pcTick_running (s := s.withInputs l) hrun).trans (if_pos halarm), hcounted,
      ignoresInputs_alarmPc]
  · rw [(pcTick_running hrun).trans (if_neg halarm), (pcTick_running (s := s.withInputs l) hrun).trans (if_neg halarm), hcounted]

theorem ignoresInputs_zcWalk (c : ChanIx) : IgnoresInputs (zcWalk c) := by
  intro s l
  have hpend : walkPend (s.withInputs l) = walkPend s := rfl
  rw [zcWalk_eq, zcWalk_eq, hpend, withInputs_chan, withInputs_driveChan, withInputs_setPend]

theorem ignoresInputs_zcLate (c : ChanIx) : IgnoresInputs (zcLate c) := by
  intro s l
  by_cases hfired : FiredInLine s c
  · rw [zcLate_fired hfired, zcLate_fired (s := s.withInputs l) hfired, withInputs_driveChan, withInputs_setPend]
  by_cases hdropped : LateDropped s c
  · rw [zcLate_dropped hdropped, zcLate_dropped (s := s.withInputs l) hdropped, withInputs_setFlag, withInputs_setPend]
  · rw [zcLate_waiting hfired hdropped, zcLate_waiting (s := s.withInputs l) hfired hdropped]

theorem ignoresInputs_walked (d : BitVec 16) : IgnoresInputs (walked d) := by
  intro s l
  rw [walked, withInputs_setCount, withInputs_chansOf]
  exact ignoresInputs_forChans ignoresInputs_zcWalk _ _ l

theorem ignoresInputs_zcPC (d : BitVec 16) : IgnoresInputs (zcPC d) := by
  intro s l
  by_cases hrun : ∃ c, InUnit s .pc c
  · rw [zcPC_running hrun, zcPC_running (s := s.withInputs l) hrun, ignoresInputs_walked, withInputs_chansOf,
      ignoresInputs_forChans ignoresInputs_zcLate, ignoresInputs_rearm]
  · rw [zcPC_stopped hrun, zcPC_stopped (s := s.withInputs l) hrun]

/-! ### The events of unit CS -/

theorem ignoresInputs_decideChan (p : Int) (c : ChanIx) : IgnoresInputs (decideChan p c) := by
  intro s l
  by_cases hfull : 0x10000 ≤ (s.chan c).fire.toNat
  · rw [decideChan_full p hfull, decideChan_full (s := s.withInputs l) p hfull, withInputs_driveChan]
  by_cases hoff : (s.chan c).fire = 0
  · rw [decideChan_off p hoff, decideChan_off (s := s.withInputs l) p hoff, withInputs_driveChan]
  by_cases hconduct : 0x10000 ≤ addDebt (s.chan c).debt (s.chan c).fire ∧ mayConduct (s.chan c).bal.toInt p = true
  · obtain ⟨hdebt, hmay⟩ := hconduct
    rw [decideChan_conducts p hfull hoff hdebt hmay, decideChan_conducts (s := s.withInputs l) p hfull hoff hdebt hmay,
      withInputs_driveChan, withInputs_setChan, withInputs_chan]
  · rw [decideChan_holdsOff p hfull hoff hconduct, decideChan_holdsOff (s := s.withInputs l) p hfull hoff hconduct,
      withInputs_driveChan, withInputs_setChan, withInputs_chan]

theorem ignoresInputs_boundary : IgnoresInputs boundary := by
  intro s l
  have hdecided : decided (s.withInputs l) = (decided s).withInputs l :=
    ignoresInputs_forChans (ignoresInputs_decideChan (polarity s)) (s.chansOf .cs) s l
  rw [boundary_eq, boundary_eq, hdecided]
  rfl

theorem ignoresInputs_csTick : IgnoresInputs csTick := by
  intro s l
  by_cases hrun : ∃ c, InUnit s .cs c
  case neg => rw [csTick_stopped hrun, csTick_stopped (s := s.withInputs l) hrun]
  by_cases hsemi : s.ucs.semi = 0
  · rw [csTick_idle hrun hsemi, csTick_idle (s := s.withInputs l) hrun hsemi, withInputs_setCount]
  obtain hbelow | hreached := lt_or_ge (s.ucs.count.toInt + 1) s.ucs.semi.toNat
  · rw [csTick_counting hrun hsemi hbelow, csTick_counting (s := s.withInputs l) hrun hsemi hbelow, withInputs_setCount, withInputs_ucs]
  · rw [csTick_boundary hrun hsemi hreached, csTick_boundary (s := s.withInputs l) hrun hsemi hreached, withInputs_ucs,
      withInputs_setCount, ignoresInputs_boundary, withInputs_setCount]

theorem ignoresInputs_tick : IgnoresInputs tick := fun s l =>
  (congrArg csTick (ignoresInputs_pcTick s l)).trans (ignoresInputs_csTick _ l)

theorem ignoresInputs_zcCS (d : BitVec 16) : IgnoresInputs (zcCS d) := by
  intro s l
  by_cases hignored : (¬ ∃ c, InUnit s .cs c) ∨ s.ucs.semi = 0
  case pos => rw [zcCS_ignored hignored, zcCS_ignored (s := s.withInputs l) hignored]
  obtain ⟨hrun, hsemi⟩ := not_or.1 hignored
  have hrun := not_not.1 hrun
  by_cases hpassed : CsNearPassed s
  · rw [zcCS_passed hrun hsemi d hpassed, zcCS_passed (s := s.withInputs l) hrun hsemi d hpassed, withInputs_setCount]
  obtain hd | hd := lt_or_ge d.toInt 0
  · rw [zcCS_early hrun hsemi d hpassed hd, zcCS_early (s := s.withInputs l) hrun hsemi d hpassed hd, withInputs_setCount,
      withInputs_ucs]
  · rw [zcCS_boundary hrun hsemi d hpassed hd, zcCS_boundary (s := s.withInputs l) hrun hsemi d hpassed hd, ignoresInputs_boundary,
      withInputs_setCount]

/-! ### The steps of a clock -/

/-- What an event that may be presented leaves of `s`. -/
def afterEvent (effect : BitVec 16 → State → State) : Option (BitVec 16) → State → State
  | none, s => s
  | some d, s => effect d s.quiet

/-- What a command that may be presented answers. -/
def afterCommand : Option Word → State → Result
  | none, s => .next s
  | some w, s => command w s

theorem clockEffect_eq (k : Clock) (s : State) :
    clockEffect k s = afterCommand k.cmd (afterEvent zcCS k.zcCS (afterEvent zcPC k.zcPC (tick s.quiet))) := by
  rcases k with ⟨rst, _ | dPC, _ | dCS, _ | w⟩ <;> rfl

theorem ignoresInputs_afterEvent {effect : BitVec 16 → State → State} (h : ∀ d, IgnoresInputs (effect d)) (o : Option (BitVec 16)) :
    IgnoresInputs (afterEvent effect o) := by
  intro s l
  cases o with
  | none => rfl
  | some d => exact h d s.quiet l

section
variable (s : State) (l : List Input)

theorem step_withInputs_tick : step (s.withInputs (.tick :: l)) = .next ((tick s.quiet).withInputs l) := by
  rw [← ignoresInputs_tick]; rfl

theorem step_withInputs_zcPC (d : BitVec 16) : step (s.withInputs (.zcPC d :: l)) = .next ((zcPC d s.quiet).withInputs l) := by
  rw [← ignoresInputs_zcPC]; rfl

theorem step_withInputs_zcCS (d : BitVec 16) : step (s.withInputs (.zcCS d :: l)) = .next ((zcCS d s.quiet).withInputs l) := by
  rw [← ignoresInputs_zcCS]; rfl

/-- Running on over an event that may be presented. -/
theorem run_afterEvent {effect : BitVec 16 → State → State} {input : BitVec 16 → Input}
    (hstep : ∀ d s l, step (State.withInputs s (input d :: l)) = .next ((effect d s.quiet).withInputs l))
    (o : Option (BitVec 16)) (n : Nat) :
    Host.Core.run Sys2Proof.core ((o.map input).toList.length + n) (s.withInputs ((o.map input).toList ++ l)) =
      Host.Core.run Sys2Proof.core n ((afterEvent effect o s).withInputs l) := by
  cases o with
  | none => rw [Option.map_none, Option.toList_none, List.length_nil, Nat.zero_add]; rfl
  | some d => rw [Nat.add_comm]; exact run_succ_of_step (hstep d s l) n

/-- Running to the end over a command that may be presented. -/
theorem run_afterCommand (o : Option Word) :
    Host.Core.run Sys2Proof.core (o.map Input.cmd).toList.length (s.withInputs ((o.map Input.cmd).toList ++ l)) =
      afterCommand o (s.withInputs l) := by
  cases o with
  | none => rfl
  | some w =>
    obtain ⟨t, ht⟩ := command_goes_on w (s.withInputs l)
    exact (run_succ_of_step ((step_of_cmd (s := s.withInputs (.cmd w :: l)) rfl).trans ht) 0).trans ht.symm

end

/-- Settles O34: each presented step in turn is taken off the list, and no event sees the list. -/
theorem clockTakesStepsInOrder : Obligations.ClockTakesStepsInOrder := by
  unfold Obligations.ClockTakesStepsInOrder
  intro s k rest hrst
  have hsteps : k.steps = .tick :: ((k.zcPC.map Input.zcPC).toList ++ ((k.zcCS.map Input.zcCS).toList ++
      (k.cmd.map Input.cmd).toList)) := by
    rw [Clock.steps, hrst, ← List.append_assoc]; rfl
  change Host.Core.run Sys2Proof.core k.steps.length (s.withInputs (k.steps ++ rest)) = clockEffect k (s.withInputs rest)
  rw [hsteps, List.length_cons, List.length_append, List.length_append, List.cons_append, List.append_assoc, List.append_assoc,
    run_succ_of_step (step_withInputs_tick s _), run_afterEvent _ _ fun d s l => step_withInputs_zcPC s l d,
    run_afterEvent _ _ fun d s l => step_withInputs_zcCS s l d, run_afterCommand, clockEffect_eq, withInputs_quiet, ignoresInputs_tick,
    ignoresInputs_afterEvent ignoresInputs_zcPC, ignoresInputs_afterEvent ignoresInputs_zcCS]

end Sys2Proof.Machine
